-- ==== Sys2Proof/Word.lean ====
section
/-! DEFINITION. The fixed widths of the block (00_scope.md R15, 30_encoding.md R80, R81, R92): a byte, a 32-bit dimension or
operand, a 64-bit response value, a 96-bit command descriptor. -/

namespace Sys2Proof

/-- A sample, a threshold, a descriptor byte, a byte of a buffer (R15). -/
abbrev Byte := BitVec 8

/-- An image dimension, a pixel coordinate, a descriptor operand `P` or `Q` (R15, R81). -/
abbrev Word := BitVec 32

/-- The `data` of a response (R92) and the register `OUT_LEN` (R21). -/
abbrev DWord := BitVec 64

/-- A command descriptor as a number: bits `8i+7:8i` are byte `Bi` (R80). -/
abbrev Descriptor := BitVec 96

end Sys2Proof
end

