-- ==== Sys2Proof/Syntax.lean ====
section
/-! DEFINITION. The command set: one constructor per row of spec/opcode_table.json (30_encoding.md R83), and the closed
enumerations of its operands (R87, R89, R90, 10_state.md R26). -/

namespace Sys2Proof

/-- Source pixel formats (R89). -/
inductive PixelFormat where
  | gray8
  | rgb888
deriving DecidableEq, Repr

/-- The buffer a RESAMPLE reads and replaces (42_resampler.md R130, R135). -/
inductive ImageBuffer where
  | src
  | gray
deriving DecidableEq, Repr

/-- The closed enumeration DitherMode (R87). -/
inductive DitherMode where
  | threshold
  | floydSteinberg
  | atkinson
deriving DecidableEq, Repr

/-- The print-mode byte's four values (R90). -/
inductive PrintMode where
  | normal
  | doubleWidth
  | doubleHeight
  | quadruple
deriving DecidableEq, Repr

/-- The control and status registers (10_state.md R26). -/
inductive Csr where
  | profMaxBuf
  | profGfx
  | srcW
  | srcH
  | srcFmt
  | srcValid
  | grayW
  | grayH
  | grayValid
  | bmpW
  | bmpH
  | bmpStride
  | bmpValid
  | outLen
  | outValid
deriving DecidableEq, Repr

/-- The commands. `t` is the threshold, `be` the best-effort flag (R88), `mode` a dither mode code outside the enumeration. -/
inductive Instr where
  | srcDef (fmt : PixelFormat) (w h : Word)
  | rdcsr (n : Csr)
  | gray
  | resampleX (buf : ImageBuffer) (tw th : Word)
  | resampleA (buf : ImageBuffer) (tw : Word)
  | ditherT (t : Byte) (be : Bool)
  | ditherFs (t : Byte) (be : Bool)
  | ditherAtk (t : Byte) (be : Bool)
  | ditherU (mode t : Byte) (be : Bool)
  | bmpNew (w h : Word)
  | setPixel (x y : Word) (black : Bool)
  | getPixel (x y : Word)
  | rasterBytes
  | encodeStd (m : PrintMode)
  | encodeLarge (m : PrintMode)
deriving DecidableEq, Repr

end Sys2Proof
end

