-- ==== Sys2Proof/WellFormed.lean ====
section
/-! DEFINITION. Which terms of Instr a descriptor can carry. The operand types already hold every bound but one: the mode
code of DITHER.U (30_encoding.md R83, R87). -/

namespace Sys2Proof

/-- DITHER.U carries a mode code "outside the enumeration (`A` in 3..255)" (43_dither.md R161); every other operand is in
range by its type. -/
def Instr.wellFormed : Instr → Bool
  | .srcDef _ _ _ => true
  | .rdcsr _ => true
  | .gray => true
  | .resampleX _ _ _ => true
  | .resampleA _ _ => true
  | .ditherT _ _ => true
  | .ditherFs _ _ => true
  | .ditherAtk _ _ => true
  | .ditherU mode _ _ => decide (3 ≤ mode.toNat)
  | .bmpNew _ _ => true
  | .setPixel _ _ _ => true
  | .getPixel _ _ => true
  | .rasterBytes => true
  | .encodeStd _ => true
  | .encodeLarge _ => true

end Sys2Proof
end

