-- ==== Sys2Proof/Decode.lean ====
section
/-! DEFINITION. The descriptor's fields (30_encoding.md R80, R81), the opcode map as a table tried in order (R83), decoding
that rejects every other descriptor by name (R84, R85), and the encoder written from the same table. -/

namespace Sys2Proof

/-- The fields of a descriptor (R81). -/
structure Fields where
  opc : Byte
  a   : Byte
  b   : Byte
  c   : Byte
  p   : Word
  q   : Word
deriving DecidableEq, Repr

/-- A descriptor cut into its fields: `OPC` 7:0, `A` 15:8, `B` 23:16, `C` 31:24, `P` 63:32, `Q` 95:64 (R81). -/
def Fields.ofDescriptor (d : Descriptor) : Fields where
  opc := d.extractLsb' 0 8
  a   := d.extractLsb' 8 8
  b   := d.extractLsb' 16 8
  c   := d.extractLsb' 24 8
  p   := d.extractLsb' 32 32
  q   := d.extractLsb' 64 32

/-- The descriptor that holds the given fields (R81). -/
def Fields.descriptor (f : Fields) : Descriptor := f.q ++ f.p ++ f.c ++ f.b ++ f.a ++ f.opc

/-- A little-endian byte string as a number, byte 0 least significant (R80). -/
def leValue : List Byte → Nat
  | [] => 0
  | b :: bs => b.toNat + 256 * leValue bs

/-- The first `n` bytes of a number, least significant first. -/
def leBytes : Nat → Nat → List Byte
  | 0, _ => []
  | n + 1, v => BitVec.ofNat 8 v :: leBytes n (v / 256)

/-- A descriptor is exactly 12 bytes `B0 .. B11` (R80). -/
def Descriptor.ofBytes (bs : List Byte) : Option Descriptor :=
  if bs.length = 12 then some (BitVec.ofNat 96 (leValue bs)) else none

/-- The 12 bytes of a descriptor, `B0` first (R80). -/
def Descriptor.toBytes (d : Descriptor) : List Byte := leBytes 12 d.toNat

/-- Why a descriptor matches no command (R84, R85). -/
inductive Illegal where
  | unknownOpcode
  | reservedBits
  | unknownCsr
deriving DecidableEq, Repr

/-- The code of a pixel format, bit 0 of `A` of SRC_DEF (R89). -/
def PixelFormat.code : PixelFormat → Byte
  | .gray8 => 0
  | .rgb888 => 1

/-- The pixel format a bit selects (R89). -/
def PixelFormat.ofBit (b : Bool) : PixelFormat := if b then .rgb888 else .gray8

/-- The buffer a bit selects: 0 = SRC, 1 = GRAY (42_resampler.md R130). -/
def ImageBuffer.ofBit (b : Bool) : ImageBuffer := if b then .gray else .src

/-- The buffer's code at its place, bit 1 of `A` (42_resampler.md R130). -/
def ImageBuffer.code : ImageBuffer → Byte
  | .src => 0
  | .gray => 2

/-- The mode codes of field `A` of DITHER (R87). -/
def DitherMode.code : DitherMode → Byte
  | .threshold => 0
  | .floydSteinberg => 1
  | .atkinson => 2

/-- The print-mode byte `m` (R90). -/
def PrintMode.code : PrintMode → Byte
  | .normal => 0
  | .doubleWidth => 1
  | .doubleHeight => 2
  | .quadruple => 3

/-- The print mode of the low two bits of `A` of ENCODE (R90). -/
def PrintMode.ofByte (a : Byte) : PrintMode :=
  match a.getLsbD 1, a.getLsbD 0 with
  | false, false => .normal
  | false, true => .doubleWidth
  | true, false => .doubleHeight
  | true, true => .quadruple

/-- A flag as bit 0 of a byte. -/
def flagByte (b : Bool) : Byte := if b then 1 else 0

/-- CSR numbers (10_state.md R26). -/
def Csr.number : Csr → Byte
  | .profMaxBuf => 0x00
  | .profGfx => 0x01
  | .srcW => 0x10
  | .srcH => 0x11
  | .srcFmt => 0x12
  | .srcValid => 0x13
  | .grayW => 0x20
  | .grayH => 0x21
  | .grayValid => 0x23
  | .bmpW => 0x30
  | .bmpH => 0x31
  | .bmpStride => 0x32
  | .bmpValid => 0x33
  | .outLen => 0x40
  | .outValid => 0x43

/-- Every CSR (10_state.md R26). -/
def Csr.all : List Csr :=
  [.profMaxBuf, .profGfx, .srcW, .srcH, .srcFmt, .srcValid, .grayW, .grayH, .grayValid, .bmpW, .bmpH, .bmpStride,
    .bmpValid, .outLen, .outValid]

/-- The CSR of a number; "Every other number is reserved" (10_state.md R26). -/
def Csr.ofNumber (n : Byte) : Option Csr := Csr.all.find? fun r => r.number == n

/-- One row of the opcode map: the mnemonic, `match` and `mask` by field, and the command the fields carry (R83). -/
structure Row where
  mnemonic : String
  pattern  : Fields
  mask     : Fields
  build    : Fields → Except Illegal Instr

/-- "A descriptor `d` selects a row when `d AND mask = match`" (R83), field by field. -/
def Row.selects (r : Row) (f : Fields) : Bool :=
  (f.opc &&& r.mask.opc == r.pattern.opc) && (f.a &&& r.mask.a == r.pattern.a) && (f.b &&& r.mask.b == r.pattern.b) &&
    (f.c &&& r.mask.c == r.pattern.c) && (f.p &&& r.mask.p == r.pattern.p) && (f.q &&& r.mask.q == r.pattern.q)

/-- A 32-bit field all of whose bits the mask covers. -/
def allOnes : Word := 0xFFFFFFFF

namespace Row

/-- SRC_DEF (R83, 40_source_and_system.md R110). -/
def srcDef : Row where
  mnemonic := "SRC_DEF"
  pattern  := ⟨0x01, 0x00, 0x00, 0x00, 0, 0⟩
  mask     := ⟨0xFF, 0xFE, 0xFF, 0xFF, 0, 0⟩
  build f  := .ok (.srcDef (PixelFormat.ofBit (f.a.getLsbD 0)) f.p f.q)

/-- RDCSR (R83, 40_source_and_system.md R111): an unlisted CSR number is illegal (R85). -/
def rdcsr : Row where
  mnemonic := "RDCSR"
  pattern  := ⟨0x02, 0x00, 0x00, 0x00, 0, 0⟩
  mask     := ⟨0xFF, 0x00, 0xFF, 0xFF, allOnes, allOnes⟩
  build f  :=
    match Csr.ofNumber f.a with
    | some n => .ok (.rdcsr n)
    | none => .error .unknownCsr

/-- GRAY (R83, 41_grayscale.md R120). -/
def gray : Row where
  mnemonic := "GRAY"
  pattern  := ⟨0x10, 0x00, 0x00, 0x00, 0, 0⟩
  mask     := ⟨0xFF, 0xFF, 0xFF, 0xFF, allOnes, allOnes⟩
  build _  := .ok .gray

/-- RESAMPLE.X (R83, 42_resampler.md R130). -/
def resampleX : Row where
  mnemonic := "RESAMPLE.X"
  pattern  := ⟨0x11, 0x00, 0x00, 0x00, 0, 0⟩
  mask     := ⟨0xFF, 0xFD, 0xFF, 0xFF, 0, 0⟩
  build f  := .ok (.resampleX (ImageBuffer.ofBit (f.a.getLsbD 1)) f.p f.q)

/-- RESAMPLE.A (R83, 42_resampler.md R131). -/
def resampleA : Row where
  mnemonic := "RESAMPLE.A"
  pattern  := ⟨0x11, 0x01, 0x00, 0x00, 0, 0⟩
  mask     := ⟨0xFF, 0xFD, 0xFF, 0xFF, 0, allOnes⟩
  build f  := .ok (.resampleA (ImageBuffer.ofBit (f.a.getLsbD 1)) f.p)

/-- DITHER.T (R83, 43_dither.md R155). -/
def ditherT : Row where
  mnemonic := "DITHER.T"
  pattern  := ⟨0x20, 0x00, 0x00, 0x00, 0, 0⟩
  mask     := ⟨0xFF, 0xFF, 0x00, 0xFE, allOnes, allOnes⟩
  build f  := .ok (.ditherT f.b (f.c.getLsbD 0))

/-- DITHER.FS (R83, 43_dither.md R156). -/
def ditherFs : Row where
  mnemonic := "DITHER.FS"
  pattern  := ⟨0x20, 0x01, 0x00, 0x00, 0, 0⟩
  mask     := ⟨0xFF, 0xFF, 0x00, 0xFE, allOnes, allOnes⟩
  build f  := .ok (.ditherFs f.b (f.c.getLsbD 0))

/-- DITHER.ATK (R83, 43_dither.md R157). -/
def ditherAtk : Row where
  mnemonic := "DITHER.ATK"
  pattern  := ⟨0x20, 0x02, 0x00, 0x00, 0, 0⟩
  mask     := ⟨0xFF, 0xFF, 0x00, 0xFE, allOnes, allOnes⟩
  build f  := .ok (.ditherAtk f.b (f.c.getLsbD 0))

/-- DITHER.U (R83, 43_dither.md R161): listed after the three modes it excludes. -/
def ditherU : Row where
  mnemonic := "DITHER.U"
  pattern  := ⟨0x20, 0x00, 0x00, 0x00, 0, 0⟩
  mask     := ⟨0xFF, 0x00, 0x00, 0xFE, allOnes, allOnes⟩
  build f  := .ok (.ditherU f.a f.b (f.c.getLsbD 0))

/-- BMP_NEW (R83, 44_bitmap.md R180). -/
def bmpNew : Row where
  mnemonic := "BMP_NEW"
  pattern  := ⟨0x30, 0x00, 0x00, 0x00, 0, 0⟩
  mask     := ⟨0xFF, 0xFF, 0xFF, 0xFF, 0, 0⟩
  build f  := .ok (.bmpNew f.p f.q)

/-- SET_PIXEL (R83, 44_bitmap.md R181). -/
def setPixel : Row where
  mnemonic := "SET_PIXEL"
  pattern  := ⟨0x31, 0x00, 0x00, 0x00, 0, 0⟩
  mask     := ⟨0xFF, 0xFE, 0xFF, 0xFF, 0, 0⟩
  build f  := .ok (.setPixel f.p f.q (f.a.getLsbD 0))

/-- GET_PIXEL (R83, 44_bitmap.md R182). -/
def getPixel : Row where
  mnemonic := "GET_PIXEL"
  pattern  := ⟨0x32, 0x00, 0x00, 0x00, 0, 0⟩
  mask     := ⟨0xFF, 0xFF, 0xFF, 0xFF, 0, 0⟩
  build f  := .ok (.getPixel f.p f.q)

/-- RASTER_BYTES (R83, 44_bitmap.md R183). -/
def rasterBytes : Row where
  mnemonic := "RASTER_BYTES"
  pattern  := ⟨0x33, 0x00, 0x00, 0x00, 0, 0⟩
  mask     := ⟨0xFF, 0xFF, 0xFF, 0xFF, allOnes, allOnes⟩
  build _  := .ok .rasterBytes

/-- ENCODE.STD (R83, 45_encoder.md R210). -/
def encodeStd : Row where
  mnemonic := "ENCODE.STD"
  pattern  := ⟨0x40, 0x00, 0x00, 0x00, 0, 0⟩
  mask     := ⟨0xFF, 0xFC, 0xFF, 0xFF, allOnes, allOnes⟩
  build f  := .ok (.encodeStd (PrintMode.ofByte f.a))

/-- ENCODE.LARGE (R83, 45_encoder.md R211). -/
def encodeLarge : Row where
  mnemonic := "ENCODE.LARGE"
  pattern  := ⟨0x40, 0x00, 0x01, 0x00, 0, 0⟩
  mask     := ⟨0xFF, 0xFC, 0xFF, 0xFF, allOnes, allOnes⟩
  build f  := .ok (.encodeLarge (PrintMode.ofByte f.a))

end Row

/-- The opcode map in the order of R83. -/
def opcodeTable : List Row :=
  [.srcDef, .rdcsr, .gray, .resampleX, .resampleA, .ditherT, .ditherFs, .ditherAtk, .ditherU, .bmpNew, .setPixel,
    .getPixel, .rasterBytes, .encodeStd, .encodeLarge]

/-- "Rows are tried in the order listed; the first that matches wins" (R83). -/
def selectRow (f : Fields) : Option Row := opcodeTable.find? fun r => r.selects f

/-- What is wrong with fields that no row takes: an `OPC` of no row, or a reserved bit set (R84, R85). -/
def illegalReason (f : Fields) : Illegal :=
  if opcodeTable.any (fun r => r.pattern.opc == f.opc) then .reservedBits else .unknownOpcode

/-- Decoding by fields (R83, R85). -/
def decodeFields (f : Fields) : Except Illegal Instr :=
  match selectRow f with
  | some r => r.build f
  | none => .error (illegalReason f)

/-- Decoding a descriptor: total, every descriptor of no row rejected by name (R85). -/
def decode (d : Descriptor) : Except Illegal Instr := decodeFields (Fields.ofDescriptor d)

/-- The fields of a command, from the columns of R83. -/
def Instr.fields : Instr → Fields
  | .srcDef fmt w h => ⟨0x01, fmt.code, 0, 0, w, h⟩
  | .rdcsr n => ⟨0x02, n.number, 0, 0, 0, 0⟩
  | .gray => ⟨0x10, 0, 0, 0, 0, 0⟩
  | .resampleX buf tw th => ⟨0x11, buf.code, 0, 0, tw, th⟩
  | .resampleA buf tw => ⟨0x11, buf.code ||| 1, 0, 0, tw, 0⟩
  | .ditherT t be => ⟨0x20, DitherMode.threshold.code, t, flagByte be, 0, 0⟩
  | .ditherFs t be => ⟨0x20, DitherMode.floydSteinberg.code, t, flagByte be, 0, 0⟩
  | .ditherAtk t be => ⟨0x20, DitherMode.atkinson.code, t, flagByte be, 0, 0⟩
  | .ditherU mode t be => ⟨0x20, mode, t, flagByte be, 0, 0⟩
  | .bmpNew w h => ⟨0x30, 0, 0, 0, w, h⟩
  | .setPixel x y black => ⟨0x31, flagByte black, 0, 0, x, y⟩
  | .getPixel x y => ⟨0x32, 0, 0, 0, x, y⟩
  | .rasterBytes => ⟨0x33, 0, 0, 0, 0, 0⟩
  | .encodeStd m => ⟨0x40, m.code, 0, 0, 0, 0⟩
  | .encodeLarge m => ⟨0x40, m.code, 1, 0, 0, 0⟩

/-- The mnemonic of a command (R83). -/
def Instr.mnemonic : Instr → String
  | .srcDef _ _ _ => "SRC_DEF"
  | .rdcsr _ => "RDCSR"
  | .gray => "GRAY"
  | .resampleX _ _ _ => "RESAMPLE.X"
  | .resampleA _ _ => "RESAMPLE.A"
  | .ditherT _ _ => "DITHER.T"
  | .ditherFs _ _ => "DITHER.FS"
  | .ditherAtk _ _ => "DITHER.ATK"
  | .ditherU _ _ _ => "DITHER.U"
  | .bmpNew _ _ => "BMP_NEW"
  | .setPixel _ _ _ => "SET_PIXEL"
  | .getPixel _ _ => "GET_PIXEL"
  | .rasterBytes => "RASTER_BYTES"
  | .encodeStd _ => "ENCODE.STD"
  | .encodeLarge _ => "ENCODE.LARGE"

/-- The descriptor of a command (R80, R81, R83). -/
def encode (i : Instr) : Descriptor := i.fields.descriptor

/-- Decoding 12 bytes in the order the host presents them (R80). -/
def decodeBytes (bs : List Byte) : Option Instr :=
  match Descriptor.ofBytes bs with
  | some d => (decode d).toOption
  | none => none

/-- The descriptor of an opcode-table word of `nbits` bits: bit 0 is bit 0 of `B0`, every bit above is 0. -/
def tableDescriptor (nbits w : Nat) : Descriptor := BitVec.ofNat 96 (w % 2 ^ nbits)

/-- The instruction the decoder reads from an opcode-table word: the word is laid out as the 12 bytes `B0 .. B11`, which
are decoded. -/
def decodeTableWord (nbits w : Nat) : Option Instr := decodeBytes (tableDescriptor nbits w).toBytes

end Sys2Proof
end

