-- ==== Sys2Proof/Config.lean ====
section
/-! DEFINITION. What an implementation fixes (00_scope.md R9 to R14) and the free values of the model. The parameters are
plain data that State carries, so that a claim quantifies over them (10_state.md R27); an `opaque` constant here has no body,
so nothing in Lean can evaluate it or prove a value of it. -/

namespace Sys2Proof

/-- A command tag: "Command tag (2–3 bytes)", so exactly the byte strings of length 2 or 3 (R10). -/
inductive Tag where
  | two (b0 b1 : Byte)
  | three (b0 b1 b2 : Byte)
deriving DecidableEq, Repr, Inhabited

/-- The bytes of a tag, first transmitted first (R94). -/
def Tag.bytes : Tag → List Byte
  | .two b0 b1 => [b0, b1]
  | .three b0 b1 b2 => [b0, b1, b2]

/-- The resampling filter (R9): `BILINEAR` of 42_resampler.md R137, or another function that a claim knows only by the
contract of R136, told apart by a number. -/
inductive Filter where
  | bilinear
  | custom (id : Nat)
deriving DecidableEq, Repr

/-- The parameters of R9, R10, R13 and R14. A capacity of `none` is unbounded. -/
structure Params where
  filter   : Filter
  tagStd   : Tag
  tagLarge : Tag
  srcCap   : Option Nat
  grayCap  : Option Nat
  bmpCap   : Option Nat
  outCap   : Option Nat
  accBits  : Nat
deriving DecidableEq, Repr

/-- The two read-only profile inputs `PROF_MAXBUF` (R11) and `PROF_GFX` (R12). -/
structure Profile where
  maxBuf : Word
  gfx    : Bool
deriving DecidableEq, Repr

namespace Config

/-- `TAG_LARGE` has no default: "OPEN, no default; the model takes it as an argument" (R10; log 11). -/
opaque tagLarge : Tag

/-- A SRC byte that neither the host nor a RESAMPLE wrote since the SRC_DEF number `epoch`, at offset `a`: "an independent
draw per byte, fixed once drawn until written" (20_memory.md R63, U5; log 6). -/
opaque freeSrcByte (epoch a : Nat) : Byte

/-- The `k`-th free 64-bit response value (10_state.md R36, U4; log 5, log 8). -/
opaque freeData (k : Nat) : DWord

/-- Sample number `i` of the result of the filter `id` that is not `BILINEAR`, a function of the filter's arguments alone
(42_resampler.md R136; log 12). -/
opaque customFilter (id : Nat) (S : List Byte) (sw sh ch dw dh i : Nat) : Byte

/-- The parameters at their defaults (92_eei_decisions.md section 6; log 10). The standard tag is the spec's default
`1D 76 30` (R10). -/
def defaultParams : Params where
  filter   := .bilinear
  tagStd   := .three 0x1D 0x76 0x30
  tagLarge := tagLarge
  srcCap   := none
  grayCap  := none
  bmpCap   := none
  outCap   := none
  accBits  := 16

/-- DESIGN CHOICE (log 9): the profile that the reset state shows, the one of the spec's test vectors (R11; R12 is OPEN). -/
def defaultProfile : Profile := ⟨65535, true⟩

end Config

/-- `ACC_BITS` is "at least 11" (R14). -/
abbrev Params.wf (p : Params) : Prop := 11 ≤ p.accBits

end Sys2Proof
end

