-- ==== Sys2Proof/Machine/State.lean ====
section
/-! DEFINITION. The state of the block (10_state.md R20 to R36) as plain data, with the host's pending actions and what the
host has observed (70_reset_and_hazards.md R272), the reasons a step can stop, and the state after reset. -/

namespace Sys2Proof.Machine

/-- The contents of a byte space: (offset, byte) pairs in one canonical form, `Memory.wf` of Machine/Ops.lean. -/
abbrev Memory := List Host.Cell

/-- The five spaces of 20_memory.md R50. -/
inductive Space where
  | src
  | gray
  | acc
  | bmp
  | out
deriving DecidableEq, Repr

/-- The four buffers (10_state.md R20), the spaces of bytes. -/
inductive Buffer where
  | src
  | gray
  | bmp
  | out
deriving DecidableEq, Repr

/-- SRC, the source image: `SRC_W`, `SRC_H`, `SRC_FMT`, `SRC_VALID` and the contents (10_state.md R21). -/
structure SrcBuffer where
  w     : Word
  h     : Word
  fmt   : PixelFormat
  valid : Bool
  mem   : Memory
deriving DecidableEq, Repr

/-- GRAY, the GrayscaleImage: `GRAY_W`, `GRAY_H`, `GRAY_VALID` and the contents (10_state.md R21). -/
structure GrayBuffer where
  w     : Word
  h     : Word
  valid : Bool
  mem   : Memory
deriving DecidableEq, Repr

/-- BMP, the MonochromeBitmap: `BMP_W`, `BMP_H`, `BMP_STRIDE`, `BMP_VALID` and the contents (10_state.md R21). -/
structure BmpBuffer where
  w      : Word
  h      : Word
  stride : Word
  valid  : Bool
  mem    : Memory
deriving DecidableEq, Repr

/-- OUT, the RasterCommand: `OUT_LEN`, `OUT_VALID` and the contents (10_state.md R21). -/
structure OutBuffer where
  len   : DWord
  valid : Bool
  mem   : Memory
deriving DecidableEq, Repr

/-- The response codes (60_exceptions.md R230). -/
inductive Code where
  | ok
  | invalidInput
  | unsupportedDitherMode
  | emptyImage
  | bufferOverflow
  | dimensionOutOfRange
  | illegalCommand
  | capacityExceeded
deriving DecidableEq, Repr

/-- What the host observes: a response `(code, data)` (30_encoding.md R92), or the bytes it read (30_encoding.md R99). -/
inductive Observation where
  | response (code : Code) (data : DWord)
  | bytes (bs : List Byte)
deriving DecidableEq, Repr

/-- The host's actions (30_encoding.md R99, 70_reset_and_hazards.md R273): a descriptor presented, bytes written at offsets
`a, a+1, ...` of a space, `n` bytes read. -/
inductive HostAction where
  | command (d : Descriptor)
  | write (sp : Space) (a : Nat) (bs : List Byte)
  | read (sp : Space) (a n : Nat)
deriving DecidableEq, Repr

/-- The state. `src` to `fatalCause` and `profile` are the architectural state of 10_state.md R20; `params` is the machine's
configuration, which no step changes; `srcEpoch` and `draws` number the free values; `host` and `observed` are the run's own
(70_reset_and_hazards.md R272). -/
structure State where
  src        : SrcBuffer
  gray       : GrayBuffer
  bmp        : BmpBuffer
  out        : OutBuffer
  /-- The accumulator cells, row-major (10_state.md R29). -/
  acc        : List Int
  fatal      : Bool
  fatalCause : Byte
  profile    : Profile
  params     : Params
  /-- The model's own: how many SRC_DEF commands have declared the source image (log 6). -/
  srcEpoch   : Nat
  /-- The model's own: how many free response values have been given (log 5, log 8). -/
  draws      : Nat
  /-- The model's own: the host's actions still to be performed (log 1). -/
  host       : List HostAction
  /-- The model's own: what the host has observed, oldest first (log 1). -/
  observed   : List Observation
deriving DecidableEq, Repr

/-- Why the machine stops with a fault. -/
inductive Fault where
  /-- The fatal stop (60_exceptions.md R241): raised by SET_PIXEL and GET_PIXEL for a coordinate outside a valid bitmap. It
  carries the halted state, `FATAL = 1` with its cause and nothing else written. "In a model it is a fault": safe (log 3). -/
  | fatalStop (halted : State)
  /-- Raised by the step when `FATAL = 1` and no host access is pending: the block accepts no command until reset (R24; U16
  "stuck"). Safe (log 3). -/
  | halted (cause : Byte)
deriving DecidableEq, Repr

/-- Why an action has no meaning. -/
inductive Refusal where
  /-- Raised by an arm of `exec` that has no meaning yet. Safe. -/
  | notModelled (mnemonic : String)
  /-- Raised by ENCODE.STD and ENCODE.LARGE when `PROF_GFX = 0`: "a model refuses the command" (45_encoder.md R202, U8).
  Safe. -/
  | graphicsUnsupported
  /-- Raised by a host access at or past the size of a buffer (20_memory.md R62, U11). Safe. -/
  | hostOffsetOutOfRange
  /-- Raised by a host access to a buffer whose valid bit is 0 (20_memory.md R62, U11). Safe. -/
  | hostBufferNil
  /-- Raised by a host access to ACC and by a host write to GRAY, BMP or OUT (20_memory.md R61, R62, U11). Safe. -/
  | hostSpaceForbidden
  /-- Raised by a host access while `FATAL = 1` (20_memory.md R62, 60_exceptions.md R241). Safe. -/
  | hostAccessWhileHalted
deriving DecidableEq, Repr

/-- The outcome of a command or of a host action. -/
abbrev Result := Host.Outcome State Fault Refusal

/-- After reset (10_state.md R36, 70_reset_and_hazards.md R260): the valid bits and `FATAL` are 0, the cause is 0. The
descriptor registers the spec leaves unspecified are 0 (DESIGN CHOICE, log 4), ACC has no cells (DESIGN CHOICE, log 13), the
profile is the one of the test vectors (DESIGN CHOICE, log 9). -/
def State.reset : State where
  src        := ⟨0, 0, .gray8, false, []⟩
  gray       := ⟨0, 0, false, []⟩
  bmp        := ⟨0, 0, 0, false, []⟩
  out        := ⟨0, false, []⟩
  acc        := []
  fatal      := false
  fatalCause := 0
  profile    := Config.defaultProfile
  params     := Config.defaultParams
  srcEpoch   := 0
  draws      := 0
  host       := []
  observed   := []

end Sys2Proof.Machine
end

