-- ==== Sys2Proof/Machine/Ops.lean ====
section
/-! DEFINITION. The named operations over memory and registers: byte memories in canonical form, the pixel-set primitive
(44_bitmap.md R184), the ends of a command (00_scope.md R17: respond, raise, halt) and what the host presents next. -/

namespace Sys2Proof.Machine

/-- `ceil(n / 8)` (00_scope.md R16), the row stride of a bitmap `n` pixels wide (10_state.md R32). -/
def strideOf (n : Nat) : Nat := (n + 7) / 8

/-- `w + h * 2^32`: the `data` that carries two dimensions (30_encoding.md R92). -/
def dims (w h : Nat) : Nat := w + h * 2 ^ 32

/-- The number of a response code (60_exceptions.md R230). -/
def Code.number : Code → Byte
  | .ok => 0x00
  | .invalidInput => 0x01
  | .unsupportedDitherMode => 0x02
  | .emptyImage => 0x03
  | .bufferOverflow => 0x04
  | .dimensionOutOfRange => 0x05
  | .illegalCommand => 0x80
  | .capacityExceeded => 0x81

/-- What an unlisted offset of a buffer holds, the ONE definition of it: in SRC nothing yet, its value being a draw
(20_memory.md R63, log 6); in GRAY, BMP and OUT the byte 0 (log 7). -/
def Buffer.unlisted : Buffer → Option Byte
  | .src => none
  | .gray => some 0
  | .bmp => some 0
  | .out => some 0

/-- The byte listed at an offset. -/
def Memory.lookup : Memory → Nat → Option Byte
  | [], _ => none
  | (k, v) :: m, a => if k = a then some v else Memory.lookup m a

/-- Lists the byte `v` at offset `a`, in its place. -/
def Memory.insert : Memory → Nat → Byte → Memory
  | [], a, v => [(a, v)]
  | (k, w) :: m, a, v =>
    if a < k then (a, v) :: (k, w) :: m else if a = k then (a, v) :: m else (k, w) :: Memory.insert m a v

/-- Takes offset `a` off the list. -/
def Memory.erase (m : Memory) (a : Nat) : Memory := m.filter fun c => c.1 != a

/-- Writes one byte of a memory whose unlisted offsets hold `u`, keeping the canonical form. -/
def Memory.write (u : Option Byte) (m : Memory) (a : Nat) (v : Byte) : Memory :=
  if u = some v then m.erase a else m.insert a v

/-- Writes bytes at `a, a+1, ...` (30_encoding.md R99). -/
def Memory.writeBytes (u : Option Byte) : Memory → Nat → List Byte → Memory
  | m, _, [] => m
  | m, a, v :: vs => Memory.writeBytes u (m.write u a v) (a + 1) vs

/-- The memory whose bytes from offset `a` on are the given ones: a whole buffer replaced (10_state.md R22). -/
def Memory.ofBytes (u : Option Byte) : Nat → List Byte → Memory
  | _, [] => []
  | a, v :: vs => if u = some v then Memory.ofBytes u (a + 1) vs else (a, v) :: Memory.ofBytes u (a + 1) vs

/-- Reads one byte; `d` says what the unlisted offsets hold. -/
def Memory.read (d : Nat → Byte) (m : Memory) (a : Nat) : Byte := (m.lookup a).getD (d a)

/-- The `n` bytes from offset `a` on in one pass over cells none of which lies below `a`. -/
def Memory.window (d : Nat → Byte) : Memory → Nat → Nat → List Byte
  | _, _, 0 => []
  | [], a, n + 1 => d a :: Memory.window d [] (a + 1) n
  | (k, v) :: m, a, n + 1 =>
    if k = a then v :: Memory.window d m (a + 1) n else d a :: Memory.window d ((k, v) :: m) (a + 1) n

/-- `MemRead(S:a, n)` as a byte string (00_scope.md R17). -/
def Memory.readBytes (d : Nat → Byte) (m : Memory) (a n : Nat) : List Byte :=
  Memory.window d (m.filter fun c => a ≤ c.1) a n

/-- The offsets rise strictly. -/
def Memory.rising : Memory → Bool
  | [] => true
  | [_] => true
  | (j, _) :: (k, w) :: m => decide (j < k) && Memory.rising ((k, w) :: m)

/-- The canonical form of a memory whose unlisted offsets hold `u`: the offsets rise strictly and no entry equals what an
unlisted offset holds. -/
def Memory.wf (u : Option Byte) (m : Memory) : Bool := m.rising && m.all fun c => u != some c.2

/-- Every listed offset lies inside the first `n`. -/
def Memory.within (n : Nat) (m : Memory) : Bool := m.all fun c => decide (c.1 < n)

/-- What the unlisted offsets of GRAY, BMP and OUT read as (log 7). -/
def zeroByte (_ : Nat) : Byte := 0

/-- The byte a pixel lies in: `y * BMP_STRIDE + floor(x / 8)` (20_memory.md R53). -/
def pixelOffset (stride x y : Nat) : Nat := y * stride + x / 8

/-- The bit a pixel is: `7 - (x mod 8)`, the leftmost pixel bit 7 (20_memory.md R53, R58). -/
def pixelBit (x : Nat) : Nat := 7 - x % 8

/-- A byte with the bit of pixel column `x` set or cleared and no other bit changed (44_bitmap.md R184). -/
def setBit (v : Byte) (x : Nat) (black : Bool) : Byte :=
  if black then v ||| (1#8 <<< pixelBit x) else v &&& ~~~(1#8 <<< pixelBit x)

/-- The pixel-set primitive of SET_PIXEL and every DITHER (44_bitmap.md R184, 43_dither.md R160). -/
def Memory.setPixel (m : Memory) (stride x y : Nat) (black : Bool) : Memory :=
  m.write Buffer.bmp.unlisted (pixelOffset stride x y)
    (setBit (m.read zeroByte (pixelOffset stride x y)) x black)

/-- The bit of a pixel: true is black (44_bitmap.md R182). -/
def Memory.getPixel (m : Memory) (stride x y : Nat) : Bool :=
  (m.read zeroByte (pixelOffset stride x y)).getLsbD (pixelBit x)

/-- Gives the host something to observe. -/
def State.observe (o : Observation) (s : State) : State := { s with observed := s.observed ++ [o] }

/-- `respond(data)`: the command ends with `OK` and the data (00_scope.md R17, 30_encoding.md R92). -/
def State.respond (data : DWord) (s : State) : State := s.observe (.response .ok data)

/-- `raise E`: the command ends with an error response, `data = 0`, and no architectural state changes (00_scope.md R17,
60_exceptions.md R240). -/
def State.raise (e : Code) (s : State) : State := s.observe (.response e 0)

/-- A free value of `bits` bits, zero-extended: the counter picks it out of the opaque `Config.freeData` (log 5, log 8). -/
def State.drawn (s : State) (bits : Nat) : DWord := BitVec.ofNat 64 ((Config.freeData s.draws).toNat % 2 ^ bits)

/-- The command ends with `OK` and a data value of `bits` bits that the spec leaves open. -/
def State.respondFree (bits : Nat) (s : State) : State := { s with draws := s.draws + 1 }.respond (s.drawn bits)

/-- Ends a command with `OK` and the number `n`. The response holds 64 bits (30_encoding.md R92); for a number that does not
fit them the spec states no value, so the data is free (DESIGN CHOICE, log 8). -/
def State.respondNat (n : Nat) (s : State) : State :=
  if n < 2 ^ 64 then s.respond (BitVec.ofNat 64 n) else s.respondFree 64

/-- The cause number of the fatal stop (10_state.md R24): 1 = `PixelOutOfRange`, the only cause. -/
def pixelOutOfRange : Byte := 1

/-- `halt(cause)`: `FATAL <- 1` with the cause, nothing else written, no response (60_exceptions.md R241). -/
def State.haltWith (cause : Byte) (s : State) : State := { s with fatal := true, fatalCause := cause }

/-- The fatal stop as the model's fault (60_exceptions.md R241, log 3). -/
def State.fatalStop (cause : Byte) (s : State) : Result := .fault (.fatalStop (s.haltWith cause))

/-- The response to a descriptor that matches no row (30_encoding.md R85, 60_exceptions.md R236). -/
def State.illegalCommand (s : State) : State := s.raise .illegalCommand

/-- The state once the host's next action is taken. -/
def State.afterTaking (s : State) (rest : List HostAction) : State := { s with host := rest }

/-- The state in which the host presents a descriptor next. -/
def State.present (s : State) (d : Descriptor) : State := { s with host := .command d :: s.host }

end Sys2Proof.Machine
end

