-- ==== Sys2Proof/Machine/Flags.lean ====
section
/-! DEFINITION. The flags of the block: the four valid bits and `FATAL` (10_state.md R24, R25), and the checks of "nil" and
"empty" that every command makes before anything else (00_scope.md R19, 60_exceptions.md R231, R245). -/

namespace Sys2Proof.Machine

/-- The valid bit of a buffer (10_state.md R21). -/
def State.validBit (s : State) : Buffer → Bool
  | .src => s.src.valid
  | .gray => s.gray.valid
  | .bmp => s.bmp.valid
  | .out => s.out.valid

/-- "a buffer whose valid bit is 0" is nil (00_scope.md R19). -/
def State.isNil (s : State) (b : Buffer) : Bool := !s.validBit b

/-- An image "whose width or height is 0" is empty (00_scope.md R19). -/
def isEmpty (w h : Word) : Bool := w == 0 || h == 0

/-- SRC cannot be read as an image: nil or empty (60_exceptions.md R231 (a), (b)). -/
def State.srcUnusable (s : State) : Bool := s.isNil .src || isEmpty s.src.w s.src.h

/-- GRAY cannot be read as an image: nil or empty (60_exceptions.md R231 (a), (b)). -/
def State.grayUnusable (s : State) : Bool := s.isNil .gray || isEmpty s.gray.w s.gray.h

/-- A pixel outside the bitmap: `x >= BMP_W` or `y >= BMP_H`, unsigned (44_bitmap.md R181). -/
def State.pixelOutside (s : State) (x y : Word) : Bool :=
  decide (s.bmp.w.toNat ≤ x.toNat) || decide (s.bmp.h.toNat ≤ y.toNat)

end Sys2Proof.Machine
end

