-- ==== Sys2Proof/Machine/Operands.lean ====
section
/-! DEFINITION. What the commands read: sizes and contents of the buffers (10_state.md R30, 20_memory.md R50 to R55),
capacities (20_memory.md R72), and the control and status registers (10_state.md R26). -/

namespace Sys2Proof.Machine

/-- `ch(fmt)`: bytes per pixel (10_state.md R30). -/
def channels : PixelFormat → Nat
  | .gray8 => 1
  | .rgb888 => 3

/-- `SRC_W * SRC_H * ch(SRC_FMT)` (10_state.md R30). -/
def SrcBuffer.size (b : SrcBuffer) : Nat := b.w.toNat * b.h.toNat * channels b.fmt

/-- `GRAY_W * GRAY_H` (10_state.md R30). -/
def GrayBuffer.size (b : GrayBuffer) : Nat := b.w.toNat * b.h.toNat

/-- `BMP_STRIDE * BMP_H` (10_state.md R30). -/
def BmpBuffer.size (b : BmpBuffer) : Nat := b.stride.toNat * b.h.toNat

/-- `OUT_LEN` (10_state.md R30). -/
def OutBuffer.size (b : OutBuffer) : Nat := b.len.toNat

/-- The size in bytes of a buffer's contents (10_state.md R30, 20_memory.md R50). -/
def State.sizeOf (s : State) : Buffer → Nat
  | .src => s.src.size
  | .gray => s.gray.size
  | .bmp => s.bmp.size
  | .out => s.out.size

/-- The contents of a buffer. -/
def State.memOf (s : State) : Buffer → Memory
  | .src => s.src.mem
  | .gray => s.gray.mem
  | .bmp => s.bmp.mem
  | .out => s.out.mem

/-- What an offset reads as when it is not listed: a SRC byte nobody wrote is a draw (20_memory.md R63, log 6), every other
buffer reads 0 there (log 7). -/
def State.unlistedByte (s : State) : Buffer → Nat → Byte
  | .src => Config.freeSrcByte s.srcEpoch
  | .gray => zeroByte
  | .bmp => zeroByte
  | .out => zeroByte

/-- `MemRead(S:a, 1)` (00_scope.md R17). -/
def State.byteAt (s : State) (b : Buffer) (a : Nat) : Byte := (s.memOf b).read (s.unlistedByte b) a

/-- `MemRead(S:a, n)` (00_scope.md R17). -/
def State.bytesAt (s : State) (b : Buffer) (a n : Nat) : List Byte := (s.memOf b).readBytes (s.unlistedByte b) a n

/-- The whole contents of a buffer in offset order. -/
def State.contents (s : State) (b : Buffer) : List Byte := s.bytesAt b 0 (s.sizeOf b)

/-- Would `n` bytes need more than the capacity (20_memory.md R72)? -/
def exceeds (n : Nat) : Option Nat → Bool
  | none => false
  | some cap => decide (cap < n)

/-- A CSR's value, zero-extended to 64 bits, or none while the spec leaves it unspecified (10_state.md R26, R36). -/
def State.csr (s : State) : Csr → Option DWord
  | .profMaxBuf => some (s.profile.maxBuf.setWidth 64)
  | .profGfx => some (if s.profile.gfx then 1 else 0)
  | .srcW => if s.src.valid then some (s.src.w.setWidth 64) else none
  | .srcH => if s.src.valid then some (s.src.h.setWidth 64) else none
  | .srcFmt => if s.src.valid then some (s.src.fmt.code.setWidth 64) else none
  | .srcValid => some (if s.src.valid then 1 else 0)
  | .grayW => if s.gray.valid then some (s.gray.w.setWidth 64) else none
  | .grayH => if s.gray.valid then some (s.gray.h.setWidth 64) else none
  | .grayValid => some (if s.gray.valid then 1 else 0)
  | .bmpW => if s.bmp.valid then some (s.bmp.w.setWidth 64) else none
  | .bmpH => if s.bmp.valid then some (s.bmp.h.setWidth 64) else none
  | .bmpStride => if s.bmp.valid then some (s.bmp.stride.setWidth 64) else none
  | .bmpValid => some (if s.bmp.valid then 1 else 0)
  | .outLen => if s.out.valid then some s.out.len else none
  | .outValid => some (if s.out.valid then 1 else 0)

/-- The width of a CSR in bits (10_state.md R26): a free value read from it has no bit above. -/
def csrBits : Csr → Nat
  | .profMaxBuf => 32
  | .profGfx => 1
  | .srcW => 32
  | .srcH => 32
  | .srcFmt => 1
  | .srcValid => 1
  | .grayW => 32
  | .grayH => 32
  | .grayValid => 1
  | .bmpW => 32
  | .bmpH => 32
  | .bmpStride => 32
  | .bmpValid => 1
  | .outLen => 64
  | .outValid => 1

/-- The width of the image a RESAMPLE reads (42_resampler.md R132). -/
def State.imageW (s : State) : ImageBuffer → Word
  | .src => s.src.w
  | .gray => s.gray.w

/-- The height of the image a RESAMPLE reads (42_resampler.md R132). -/
def State.imageH (s : State) : ImageBuffer → Word
  | .src => s.src.h
  | .gray => s.gray.h

/-- The channels of the image a RESAMPLE reads: 1 for GRAY, `ch(SRC_FMT)` for SRC (42_resampler.md R132). -/
def State.imageChannels (s : State) : ImageBuffer → Nat
  | .src => channels s.src.fmt
  | .gray => 1

/-- The samples of the image a RESAMPLE reads, in the buffer's layout (20_memory.md R51, R52). -/
def State.imageSamples (s : State) : ImageBuffer → List Byte
  | .src => s.contents .src
  | .gray => s.contents .gray

/-- `SRC_CAP` or `GRAY_CAP` (42_resampler.md R132). -/
def State.imageCap (s : State) : ImageBuffer → Option Nat
  | .src => s.params.srcCap
  | .gray => s.params.grayCap

/-- Nil or empty (42_resampler.md R132, R133). -/
def State.imageUnusable (s : State) : ImageBuffer → Bool
  | .src => s.srcUnusable
  | .gray => s.grayUnusable

/-- The image buffer replaced whole, `SRC_FMT` unchanged (42_resampler.md R132). -/
def State.replaceImage (s : State) (w h : Nat) (samples : List Byte) : ImageBuffer → State
  | .src => { s with src := ⟨BitVec.ofNat 32 w, BitVec.ofNat 32 h, s.src.fmt, true, Memory.ofBytes Buffer.src.unlisted 0 samples⟩ }
  | .gray => { s with gray := ⟨BitVec.ofNat 32 w, BitVec.ofNat 32 h, true, Memory.ofBytes Buffer.gray.unlisted 0 samples⟩ }

end Sys2Proof.Machine
end

