-- ==== Sys2Proof/Machine/Bitmap.lean ====
section
/-! DEFINITION. The Monochrome Bitmap: BMP_NEW, SET_PIXEL, GET_PIXEL, RASTER_BYTES (44_bitmap.md). -/

namespace Sys2Proof.Machine

/-- BMP_NEW (44_bitmap.md R180): every byte 0, which is what an unlisted byte of BMP holds. -/
def execBmpNew (w h : Word) (s : State) : Result :=
  let n := strideOf w.toNat * h.toNat
  if exceeds n s.params.bmpCap then .next (s.raise .capacityExceeded)
  else .next ({ s with bmp := ⟨w, h, BitVec.ofNat 32 (strideOf w.toNat), true, []⟩ }.respondNat n)

/-- SET_PIXEL (44_bitmap.md R181). -/
def execSetPixel (x y : Word) (black : Bool) (s : State) : Result :=
  if s.isNil .bmp then .next (s.raise .invalidInput)
  else if s.pixelOutside x y then s.fatalStop pixelOutOfRange
  else
    let mem := s.bmp.mem.setPixel s.bmp.stride.toNat x.toNat y.toNat black
    .next ({ s with bmp := { s.bmp with mem := mem } }.respond 0)

/-- GET_PIXEL (44_bitmap.md R182): 1 is black. -/
def execGetPixel (x y : Word) (s : State) : Result :=
  if s.isNil .bmp then .next (s.raise .invalidInput)
  else if s.pixelOutside x y then s.fatalStop pixelOutOfRange
  else .next (s.respond (if s.bmp.mem.getPixel s.bmp.stride.toNat x.toNat y.toNat then 1 else 0))

/-- RASTER_BYTES (44_bitmap.md R183). -/
def execRasterBytes (s : State) : Result :=
  if s.isNil .bmp then .next (s.raise .invalidInput)
  else .next (s.respondNat (s.bmp.stride.toNat * s.bmp.h.toNat))

end Sys2Proof.Machine
end

