-- ==== Sys2Proof/Machine/Dither.lean ====
section
/-! DEFINITION. The Dither Engine: DITHER.T, DITHER.FS, DITHER.ATK, DITHER.U (43_dither.md). -/

namespace Sys2Proof.Machine

/-- What the scan works on: the accumulator cells and the bytes of the new bitmap (43_dither.md R152, R153). -/
structure DitherScan where
  acc : List Int
  bmp : Memory
deriving DecidableEq, Repr

/-- The shares of an error as (columns right, rows down, amount), none for Threshold, four for Floyd–Steinberg, six equal
ones for Atkinson; `tdiv` truncates toward zero (43_dither.md R155, R156, R157, R164). -/
def errorShares (mode : DitherMode) (err : Int) : List (Int × Int × Int) :=
  match mode with
  | .threshold => []
  | .floydSteinberg =>
    [(1, 0, (err * 7).tdiv 16), (-1, 1, (err * 3).tdiv 16), (0, 1, (err * 5).tdiv 16), (1, 1, (err * 1).tdiv 16)]
  | .atkinson =>
    [(1, 0, err.tdiv 8), (2, 0, err.tdiv 8), (-1, 1, err.tdiv 8), (0, 1, err.tdiv 8), (1, 1, err.tdiv 8),
      (0, 2, err.tdiv 8)]

/-- `add(x', y', s)`: a share outside the image is dropped (43_dither.md R156, R158), and the cell is not clamped (R159). -/
def addShare (w h : Nat) (acc : List Int) (x y amount : Int) : List Int :=
  if 0 ≤ x ∧ x < w ∧ 0 ≤ y ∧ y < h then acc.modify (y.toNat * w + x.toNat) (· + amount) else acc

/-- `diffuse(mode, x, y, err)`, the shares added in the rule's order (43_dither.md R155, R156, R157). -/
def diffuse (mode : DitherMode) (w h x y : Nat) (err : Int) (acc : List Int) : List Int :=
  (errorShares mode err).foldl (fun a e => addShare w h a (x + e.1) (y + e.2.1) e.2.2) acc

/-- The decision at a pixel whose error-corrected value is `old` (43_dither.md R154): the test is `<=`. -/
def isBlack (old : Int) (t : Byte) : Bool := decide (old ≤ t.toNat)

/-- `new`: 0 if black, else 255 (43_dither.md R154). -/
def quantized (black : Bool) : Int := if black then 0 else 255

/-- The value the scan tests at pixel number `i` (43_dither.md R154: `old <- ACC[x, y]`). -/
def cellAt (acc : List Int) (i : Nat) : Int := acc.getD i 0

/-- The step at a pixel (43_dither.md R154, R160). -/
def ditherPixel (mode : DitherMode) (t : Byte) (w h : Nat) (d : DitherScan) (p : Nat × Nat) : DitherScan :=
  let i := p.2 * w + p.1
  let old := cellAt d.acc i
  let black := isBlack old t
  let err := old - quantized black
  ⟨diffuse mode w h p.1 p.2 err (d.acc.set i (quantized black)), d.bmp.setPixel (strideOf w) p.1 p.2 black⟩

/-- The pixels in row-major order, left to right and top to bottom (43_dither.md R151). -/
def scanOrder (w h : Nat) : List (Nat × Nat) :=
  (List.range h).flatMap fun y => (List.range w).map fun x => (x, y)

/-- The accumulator at the start: the GRAY samples, zero-extended (43_dither.md R153). -/
def initialAcc (samples : List Byte) : List Int := samples.map fun b => (b.toNat : Int)

/-- The whole scan, from an all-white bitmap (43_dither.md R152, R162). -/
def ditherScan (mode : DitherMode) (t : Byte) (w h : Nat) (samples : List Byte) : DitherScan :=
  (scanOrder w h).foldl (ditherPixel mode t w h) ⟨initialAcc samples, []⟩

/-- The whole command in a supported mode (43_dither.md R162), past the mode check. -/
def ditherImage (mode : DitherMode) (t : Byte) (s : State) : Result :=
  let w := s.gray.w.toNat
  let h := s.gray.h.toNat
  if exceeds (strideOf w * h) s.params.bmpCap then .next (s.raise .capacityExceeded)
  else
    let r := ditherScan mode t w h (s.contents .gray)
    let bmp : BmpBuffer := ⟨s.gray.w, s.gray.h, BitVec.ofNat 32 (strideOf w), true, r.bmp⟩
    .next ({ s with bmp := bmp, acc := r.acc }.respondNat (dims w h))

/-- A DITHER command in a supported mode (43_dither.md R162, errors R163). -/
def dither (mode : DitherMode) (t : Byte) (s : State) : Result :=
  if s.grayUnusable then .next (s.raise .invalidInput) else ditherImage mode t s

/-- DITHER.T (43_dither.md R155); `BE` "has no effect" (R161). -/
def execDitherT (t : Byte) (_be : Bool) (s : State) : Result := dither .threshold t s

/-- DITHER.FS (43_dither.md R156); `BE` "has no effect" (R161). -/
def execDitherFs (t : Byte) (_be : Bool) (s : State) : Result := dither .floydSteinberg t s

/-- DITHER.ATK (43_dither.md R157); `BE` "has no effect" (R161). -/
def execDitherAtk (t : Byte) (_be : Bool) (s : State) : Result := dither .atkinson t s

/-- DITHER.U (43_dither.md R161, R162): a nil or empty image first, then Threshold on the opt-in and
`UnsupportedDitherMode` without it, whatever the mode code (log 15). -/
def execDitherU (_mode t : Byte) (be : Bool) (s : State) : Result :=
  if s.grayUnusable then .next (s.raise .invalidInput)
  else if be then ditherImage .threshold t s
  else .next (s.raise .unsupportedDitherMode)

end Sys2Proof.Machine
end

