-- ==== Sys2Proof/Machine/Encoder.lean ====
section
/-! DEFINITION. The Raster Command Encoder: ENCODE.STD, ENCODE.LARGE (45_encoder.md) and the wire format (30_encoding.md
R94). -/

namespace Sys2Proof.Machine

/-- The RasterCommand (30_encoding.md R94, 45_encoder.md R207). -/
def rasterCommand (tag : Tag) (m : PrintMode) (F wb h : Nat) (payload : List Byte) : List Byte :=
  tag.bytes ++ [m.code] ++ leBytes F wb ++ leBytes F h ++ payload

/-- `|TAG| + 1 + 2*F + n` (30_encoding.md R94). -/
def rasterCommandLength (tag : Tag) (F n : Nat) : Nat := tag.bytes.length + 1 + 2 * F + n

/-- What a reader finds in a RasterCommand (30_encoding.md R96). -/
structure RasterFields where
  mode       : Byte
  widthBytes : Nat
  height     : Nat
  payload    : List Byte
deriving DecidableEq, Repr

/-- A reader that "knows `|TAG|` and `F` from the tag it recognises, then reads the two dimension fields and multiplies them"
(30_encoding.md R96): none for another tag, a missing field or a payload of another length. -/
def readRasterCommand (tag : Tag) (F : Nat) (bs : List Byte) : Option RasterFields :=
  let k := tag.bytes.length
  let wb := leValue ((bs.drop (k + 1)).take F)
  let h := leValue ((bs.drop (k + 1 + F)).take F)
  let payload := bs.drop (k + 1 + 2 * F)
  match bs.drop k with
  | [] => none
  | m :: _ =>
    if bs.take k = tag.bytes ∧ k + 1 + 2 * F ≤ bs.length ∧ payload.length = wb * h then some ⟨m, wb, h, payload⟩ else none

/-- The whole command (45_encoder.md R209, errors R213). -/
def encodeBitmap (m : PrintMode) (F : Nat) (tag : Tag) (lim : Nat) (s : State) : Result :=
  let wb := s.bmp.stride.toNat
  let h := s.bmp.h.toNat
  let n := wb * h
  let L := rasterCommandLength tag F n
  if !s.profile.gfx then .refused .graphicsUnsupported
  else if s.isNil .bmp then .next (s.raise .invalidInput)
  else if wb = 0 ∨ h = 0 then .next (s.raise .emptyImage)
  else if lim < wb ∨ lim < h then .next (s.raise .dimensionOutOfRange)
  else if s.profile.maxBuf.toNat < n then .next (s.raise .bufferOverflow)
  else if exceeds L s.params.outCap then .next (s.raise .capacityExceeded)
  else
    let command := rasterCommand tag m F wb h (s.bytesAt .bmp 0 n)
    let out : OutBuffer := ⟨BitVec.ofNat 64 L, true, Memory.ofBytes Buffer.out.unlisted 0 command⟩
    .next ({ s with out := out }.respondNat L)

/-- ENCODE.STD: standard framing, fields of 2 bytes (45_encoder.md R210). -/
def execEncodeStd (m : PrintMode) (s : State) : Result := encodeBitmap m 2 s.params.tagStd 65535 s

/-- ENCODE.LARGE: large framing, fields of 4 bytes (45_encoder.md R211). -/
def execEncodeLarge (m : PrintMode) (s : State) : Result := encodeBitmap m 4 s.params.tagLarge 4294967295 s

end Sys2Proof.Machine
end

