-- ==== Sys2Proof/Machine/Grayscale.lean ====
section
/-! DEFINITION. The Grayscale Normalizer, GRAY (41_grayscale.md). -/

namespace Sys2Proof.Machine

/-- Luminance of an RGB888 pixel (41_grayscale.md R121). -/
def luma (r g b : Byte) : Byte :=
  BitVec.ofNat 8 ((19595 * r.toNat + 38470 * g.toNat + 7471 * b.toNat + 32768) / 65536)

/-- The gray sample of pixel number `i` of a source image with contents `S` (41_grayscale.md R120): identity on one channel
(R122), luminance of the three interleaved bytes otherwise. -/
def graySample (fmt : PixelFormat) (S : List Byte) (i : Nat) : Byte :=
  match fmt with
  | .gray8 => S.getD i 0
  | .rgb888 => luma (S.getD (i * 3) 0) (S.getD (i * 3 + 1) 0) (S.getD (i * 3 + 2) 0)

/-- `newGRAY`: the samples of all `n` pixels in row-major order (41_grayscale.md R120). -/
def graySamples (fmt : PixelFormat) (S : List Byte) (n : Nat) : List Byte :=
  (List.range n).map (graySample fmt S)

/-- GRAY (41_grayscale.md R120, errors R123). -/
def execGray (s : State) : Result :=
  let n := s.src.w.toNat * s.src.h.toNat
  if s.srcUnusable then .next (s.raise .invalidInput)
  else if exceeds n s.params.grayCap then .next (s.raise .capacityExceeded)
  else
    let samples := graySamples s.src.fmt (s.contents .src) n
    let gray : GrayBuffer := ⟨s.src.w, s.src.h, true, Memory.ofBytes Buffer.gray.unlisted 0 samples⟩
    .next ({ s with gray := gray }.respondNat (dims s.src.w.toNat s.src.h.toNat))

end Sys2Proof.Machine
end

