-- ==== Sys2Proof/Machine/Resampler.lean ====
section
/-! DEFINITION. The Resampler, RESAMPLE.X and RESAMPLE.A (42_resampler.md). -/

namespace Sys2Proof.Machine

/-- `clamp(v, lo, hi)` (00_scope.md R16). -/
def clamp (v lo hi : Int) : Int := min (max v lo) hi

/-- The two source positions a destination position reads along one axis, and the weight of the second in units of
`1 / (2 * dn)` (42_resampler.md R137: `xa`, `xb`, `fx`, and `ya`, `yb`, `fy`). -/
structure AxisTap where
  a : Nat
  b : Nat
  f : Nat
deriving DecidableEq, Repr

/-- Destination position `i` of `dn` along an axis of `sn` source positions (42_resampler.md R137): the pixel centres are
aligned, `floor` is the rounding of `Int` division by a positive number, and the positions are clamped to the axis. -/
def axisTap (i sn dn : Nat) : AxisTap :=
  let D : Int := 2 * dn
  let X : Int := (2 * i + 1) * sn - dn
  let x0 : Int := X / D
  ⟨(clamp x0 0 (sn - 1)).toNat, (clamp (x0 + 1) 0 (sn - 1)).toNat, (X - x0 * D).toNat⟩

/-- `s(x, y)` for channel `c` (42_resampler.md R137). -/
def sampleAt (S : List Byte) (sw ch c x y : Nat) : Nat := (S.getD ((y * sw + x) * ch + c) 0).toNat

/-- One output sample of `BILINEAR` (42_resampler.md R137): the weighted sum over the four source samples, rounded to
nearest with halves up. -/
def bilinearSample (S : List Byte) (sw sh ch dw dh dx dy c : Nat) : Nat :=
  let Dx := 2 * dw
  let Dy := 2 * dh
  let D := Dx * Dy
  let tx := axisTap dx sw dw
  let ty := axisTap dy sh dh
  let N := (Dx - tx.f) * (Dy - ty.f) * sampleAt S sw ch c tx.a ty.a + tx.f * (Dy - ty.f) * sampleAt S sw ch c tx.b ty.a
    + (Dx - tx.f) * ty.f * sampleAt S sw ch c tx.a ty.b + tx.f * ty.f * sampleAt S sw ch c tx.b ty.b
  (2 * N + D) / (2 * D)

/-- `BILINEAR(S, sw, sh, ch, dw, dh)` (42_resampler.md R137): rows, then columns, then channels. -/
def bilinear (S : List Byte) (sw sh ch dw dh : Nat) : List Byte :=
  (List.range dh).flatMap fun dy => (List.range dw).flatMap fun dx => (List.range ch).map fun c =>
    BitVec.ofNat 8 (bilinearSample S sw sh ch dw dh dx dy c)

/-- `FILTER(S, sw, sh, ch, dw, dh)` (00_scope.md R9, 42_resampler.md R136): another filter than `BILINEAR` is known only to
return `dw * dh * ch` samples that depend on its arguments alone (log 12). -/
def filterImage (k : Filter) (S : List Byte) (sw sh ch dw dh : Nat) : List Byte :=
  match k with
  | .bilinear => bilinear S sw sh ch dw dh
  | .custom id => (List.range (dw * dh * ch)).map (Config.customFilter id S sw sh ch dw dh)

/-- `round(sh * tw / sw)`, halves up (42_resampler.md R131). -/
def aspectHeight (sh tw sw : Nat) : Nat := (2 * sh * tw + sw) / (2 * sw)

/-- The common procedure (42_resampler.md R132, errors R133, pass-through R134); `dh` is the target height. -/
def resample (buf : ImageBuffer) (tw : Word) (dh : Nat) (s : State) : Result :=
  let sw := (s.imageW buf).toNat
  let sh := (s.imageH buf).toNat
  let ch := s.imageChannels buf
  if s.imageUnusable buf then .next (s.raise .invalidInput)
  else if tw.toNat = 0 then .next (s.raise .invalidInput)
  else if sw ≤ tw.toNat then .next (s.respondNat (dims sw sh))
  else if exceeds (tw.toNat * dh * ch) (s.imageCap buf) then .next (s.raise .capacityExceeded)
  else
    let samples := filterImage s.params.filter (s.imageSamples buf) sw sh ch tw.toNat dh
    .next ((s.replaceImage tw.toNat dh samples buf).respondNat (dims tw.toNat dh))

/-- RESAMPLE.X: the height is supplied explicitly (42_resampler.md R130). -/
def execResampleX (buf : ImageBuffer) (tw th : Word) (s : State) : Result := resample buf tw th.toNat s

/-- RESAMPLE.A: the height preserves the aspect ratio (42_resampler.md R131). It is used only past the check that the source
width is not 0. -/
def execResampleA (buf : ImageBuffer) (tw : Word) (s : State) : Result :=
  resample buf tw (aspectHeight (s.imageH buf).toNat tw.toNat (s.imageW buf).toNat) s

end Sys2Proof.Machine
end

