-- ==== Sys2Proof/Machine/SourceSystem.lean ====
section
/-! DEFINITION. SRC_DEF and RDCSR (40_source_and_system.md). -/

namespace Sys2Proof.Machine

/-- SRC declared: the descriptor written, every byte unwritten again, so a new number for the draws (40_source_and_system.md
R110, 20_memory.md R63). -/
def State.defineSource (s : State) (fmt : PixelFormat) (w h : Word) : State :=
  { s with src := ⟨w, h, fmt, true, []⟩, srcEpoch := s.srcEpoch + 1 }

/-- SRC_DEF (40_source_and_system.md R110). -/
def execSrcDef (fmt : PixelFormat) (w h : Word) (s : State) : Result :=
  let n := w.toNat * h.toNat * channels fmt
  if exceeds n s.params.srcCap then .next (s.raise .capacityExceeded)
  else .next ((s.defineSource fmt w h).respondNat n)

/-- RDCSR (40_source_and_system.md R111): a register whose buffer is nil "returns an arbitrary value, a draw"
(10_state.md R36), no wider than the register. -/
def execRdcsr (n : Csr) (s : State) : Result :=
  match s.csr n with
  | some v => .next (s.respond v)
  | none => .next (s.respondFree (csrBits n))

end Sys2Proof.Machine
end

