-- ==== Sys2Proof/Machine/Dispatch.lean ====
section
/-! DEFINITION. One arm per command, each one call of its meaning. -/

namespace Sys2Proof.Machine

/-- The meaning of a command (opcode_table.json, one row an arm). -/
def exec (i : Instr) (s : State) : Host.Outcome State Fault Refusal :=
  match i with
  | .srcDef fmt w h => Sys2Proof.Machine.execSrcDef fmt w h s
  | .rdcsr n => Sys2Proof.Machine.execRdcsr n s
  | .gray => Sys2Proof.Machine.execGray s
  | .resampleX buf tw th => Sys2Proof.Machine.execResampleX buf tw th s
  | .resampleA buf tw => Sys2Proof.Machine.execResampleA buf tw s
  | .ditherT t be => Sys2Proof.Machine.execDitherT t be s
  | .ditherFs t be => Sys2Proof.Machine.execDitherFs t be s
  | .ditherAtk t be => Sys2Proof.Machine.execDitherAtk t be s
  | .ditherU mode t be => Sys2Proof.Machine.execDitherU mode t be s
  | .bmpNew w h => Sys2Proof.Machine.execBmpNew w h s
  | .setPixel x y black => Sys2Proof.Machine.execSetPixel x y black s
  | .getPixel x y => Sys2Proof.Machine.execGetPixel x y s
  | .rasterBytes => Sys2Proof.Machine.execRasterBytes s
  | .encodeStd m => Sys2Proof.Machine.execEncodeStd m s
  | .encodeLarge m => Sys2Proof.Machine.execEncodeLarge m s

end Sys2Proof.Machine
end

