-- ==== Sys2Proof/Machine/HostAccess.lean ====
section
/-! DEFINITION. The host's moves (70_reset_and_hazards.md R273): a descriptor presented (30_encoding.md R85), and its own
accesses to the buffers between commands (20_memory.md R61, R62, 30_encoding.md R99). -/

namespace Sys2Proof.Machine

/-- A descriptor presented: its command performed, or `IllegalCommand` answered before any buffer is looked at
(30_encoding.md R85). -/
def runDescriptor (d : Descriptor) (s : State) : Host.Outcome State Fault Refusal :=
  match Sys2Proof.decode d with
  | .ok i => exec i s
  | .error _ => .next s.illegalCommand

/-- HOSTWR: bytes at `a, a+1, ...`, into SRC only, while `SRC_VALID = 1` and inside the declared size (20_memory.md R61);
anything else "has no meaning in this spec: a model refuses it" (R62, log 14). -/
def State.hostWrite (sp : Space) (a : Nat) (bs : List Byte) (s : State) : Result :=
  match sp with
  | .src =>
    if s.isNil .src then .refused .hostBufferNil
    else if s.src.size < a + bs.length then .refused .hostOffsetOutOfRange
    else .next { s with src := { s.src with mem := s.src.mem.writeBytes Buffer.src.unlisted a bs } }
  | .gray => .refused .hostSpaceForbidden
  | .acc => .refused .hostSpaceForbidden
  | .bmp => .refused .hostSpaceForbidden
  | .out => .refused .hostSpaceForbidden

/-- `n` bytes from offset `a` of a buffer, while its valid bit is 1 and inside its size (20_memory.md R61, R62, log 14). -/
def State.readBuffer (b : Buffer) (a n : Nat) (s : State) : Result :=
  if s.isNil b then .refused .hostBufferNil
  else if s.sizeOf b < a + n then .refused .hostOffsetOutOfRange
  else .next (s.observe (.bytes (s.bytesAt b a n)))

/-- HOSTRD: the host "cannot reach ACC" (20_memory.md R61). -/
def State.hostRead (sp : Space) (a n : Nat) (s : State) : Result :=
  match sp with
  | .src => s.readBuffer .src a n
  | .gray => s.readBuffer .gray a n
  | .acc => .refused .hostSpaceForbidden
  | .bmp => s.readBuffer .bmp a n
  | .out => s.readBuffer .out a n

/-- What a halted block does with the host's next action: a command is stuck (10_state.md R24, U16), a host access has no
meaning (20_memory.md R62); with no action pending it stays halted (log 3). -/
def State.haltedOutcome (s : State) : Result :=
  match s.host with
  | [] => .fault (.halted s.fatalCause)
  | .command _ :: _ => .fault (.halted s.fatalCause)
  | .write _ _ _ :: _ => .refused .hostAccessWhileHalted
  | .read _ _ _ :: _ => .refused .hostAccessWhileHalted

end Sys2Proof.Machine
end

