-- ==== Sys2Proof/Machine/Step.lean ====
section
/-! DEFINITION. One step: the host's next action performed whole (20_memory.md R65, 10_state.md R23). -/

namespace Sys2Proof.Machine

/-- One step. A halted block accepts nothing (10_state.md R24); with no action pending the block is idle (60_exceptions.md
R255, log 2); otherwise the first pending action is taken and performed. -/
def step (s : State) : Host.Outcome State Fault Refusal :=
  if s.fatal then s.haltedOutcome
  else
    match s.host with
    | [] => .next s
    | .command d :: rest => runDescriptor d (s.afterTaking rest)
    | .write sp a bs :: rest => (s.afterTaking rest).hostWrite sp a bs
    | .read sp a n :: rest => (s.afterTaking rest).hostRead sp a n

/-- The state in which the opcode-table word `w` of `nbits` bits is the descriptor the next step takes (log 1). -/
def State.withFetchWord (s : State) (nbits w : Nat) : State := s.present (Sys2Proof.tableDescriptor nbits w)

end Sys2Proof.Machine
end

