-- ==== Sys2Proof/Machine/HostProgram.lean ====
section
/-! DEFINITION. How a host writes and sequences commands: assembler text and the default threshold (30_encoding.md R97, R98),
and the pseudo-instructions, fixed sequences that stop at the first response that is not `OK` (R100). -/

namespace Sys2Proof.Machine

/-- The name of a CSR in assembler text (10_state.md R26). -/
def csrName : Csr → String
  | .profMaxBuf => "PROF_MAXBUF"
  | .profGfx => "PROF_GFX"
  | .srcW => "SRC_W"
  | .srcH => "SRC_H"
  | .srcFmt => "SRC_FMT"
  | .srcValid => "SRC_VALID"
  | .grayW => "GRAY_W"
  | .grayH => "GRAY_H"
  | .grayValid => "GRAY_VALID"
  | .bmpW => "BMP_W"
  | .bmpH => "BMP_H"
  | .bmpStride => "BMP_STRIDE"
  | .bmpValid => "BMP_VALID"
  | .outLen => "OUT_LEN"
  | .outValid => "OUT_VALID"

/-- `GRAY8|RGB888` (30_encoding.md R97). -/
def formatName : PixelFormat → String
  | .gray8 => "GRAY8"
  | .rgb888 => "RGB888"

/-- `SRC|GRAY` (30_encoding.md R97). -/
def imageName : ImageBuffer → String
  | .src => "SRC"
  | .gray => "GRAY"

/-- A number in decimal. -/
def decimal {n : Nat} (v : BitVec n) : String := toString v.toNat

/-- The threshold and, if set, `BE` (30_encoding.md R97). -/
def ditherOperands (t : Byte) (be : Bool) : List String := if be then [decimal t, "BE"] else [decimal t]

/-- A command's operands in the order of 30_encoding.md R97. -/
def operandTexts : Instr → List String
  | .srcDef fmt w h => [decimal w, decimal h, formatName fmt]
  | .rdcsr n => [csrName n]
  | .gray => []
  | .resampleX buf tw th => [imageName buf, decimal tw, decimal th]
  | .resampleA buf tw => [imageName buf, decimal tw]
  | .ditherT t be => ditherOperands t be
  | .ditherFs t be => ditherOperands t be
  | .ditherAtk t be => ditherOperands t be
  | .ditherU mode t be => decimal mode :: ditherOperands t be
  | .bmpNew w h => [decimal w, decimal h]
  | .setPixel x y black => [decimal x, decimal y, if black then "1" else "0"]
  | .getPixel x y => [decimal x, decimal y]
  | .rasterBytes => []
  | .encodeStd m => [decimal m.code]
  | .encodeLarge m => [decimal m.code]

/-- "its mnemonic followed by its operands ..., comma separated" (30_encoding.md R97). -/
def assemblerText (i : Instr) : String :=
  match operandTexts i with
  | [] => i.mnemonic
  | os => i.mnemonic ++ " " ++ String.intercalate ", " os

/-- "An omitted `t` assembles as 128" (30_encoding.md R98). -/
def defaultThreshold : Byte := 128

/-- `APPLY mode, t` (30_encoding.md R100). -/
def applyCommand (mode t : Byte) : Instr :=
  if mode = DitherMode.threshold.code then .ditherT t false
  else if mode = DitherMode.floydSteinberg.code then .ditherFs t false
  else if mode = DitherMode.atkinson.code then .ditherAtk t false
  else .ditherU mode t false

/-- `PIPELINE tw, mode, t, m` (30_encoding.md R100). -/
def pipeline (tw : Word) (mode t : Byte) (m : PrintMode) : List Instr :=
  [.resampleA .src tw, .gray, applyCommand mode t, .encodeStd m]

/-- `PIPELINE.L tw, mode, t, m` (30_encoding.md R100). -/
def pipelineLarge (tw : Word) (mode t : Byte) (m : PrintMode) : List Instr :=
  [.resampleA .src tw, .gray, applyCommand mode t, .encodeLarge m]

/-- Was the last response `OK`? -/
def State.lastAnsweredOk (s : State) : Bool :=
  match s.observed.getLast? with
  | some (.response .ok _) => true
  | some (.response _ _) => false
  | some (.bytes _) => false
  | none => false

/-- Commands one after the other, whatever they answer. -/
def execAll : List Instr → State → Result
  | [], s => .next s
  | i :: is, s =>
    match exec i s with
    | .next t => execAll is t
    | .fault f => .fault f
    | .refused r => .refused r

/-- A pseudo-instruction: "the host stops at the first response whose code is not `OK`" (30_encoding.md R100). -/
def execUntilError : List Instr → State → Result
  | [], s => .next s
  | i :: is, s =>
    match exec i s with
    | .next t => if t.lastAnsweredOk then execUntilError is t else .next t
    | .fault f => .fault f
    | .refused r => .refused r

end Sys2Proof.Machine
end

