-- ==== Sys2Proof/Safety.lean ====
section
/-! DEFINITION. The terms claims use: runs and how they end (70_reset_and_hazards.md R272), the invariants of the state, the
architectural part of it, and what a command answered. -/

namespace Sys2Proof.Machine

/-- The observable result of a run: the responses and the data read, and the RasterCommand when OUT holds one
(70_reset_and_hazards.md R272). -/
def State.result (s : State) : List Observation × Option (DWord × List Byte) :=
  (s.observed, if s.out.valid then some (s.out.len, s.contents .out) else none)

/-- A run "ends well when the last action has been answered and `FATAL = 0`" (70_reset_and_hazards.md R272); that nothing was
refused and nothing faulted is that the run answered this state. -/
def State.endedWell (s : State) : Prop := s.host = [] ∧ s.fatal = false

/-- The step answers `t`. -/
def Steps (s t : State) : Prop := step s = .next t

/-- `t` is reached from `s` by steps that answer a next state. -/
inductive Reaches (s : State) : State → Prop where
  | refl : Reaches s s
  | tail {t u : State} : Reaches s t → Steps t u → Reaches s u

/-- The command ends with a response of the given code. -/
def Answers (i : Instr) (s : State) (c : Code) : Prop :=
  ∃ t d, exec i s = .next t ∧ t.observed = s.observed ++ [.response c d]

/-- `n` bytes fit a capacity; every number of bytes fits an unbounded one (00_scope.md R13). -/
def Fits (n : Nat) (cap : Option Nat) : Prop := ∀ c, cap = some c → n ≤ c

/-- The buffer a RESAMPLE names (42_resampler.md R135). -/
def bufferOf : ImageBuffer → Buffer
  | .src => .src
  | .gray => .gray

/-- The buffer behind a space the host may read (20_memory.md R61); ACC has none. -/
def readableBuffer : Space → Option Buffer
  | .src => some .src
  | .gray => some .gray
  | .acc => none
  | .bmp => some .bmp
  | .out => some .out

/-- SRC holds an image that is neither nil nor empty (00_scope.md R19). -/
def State.srcHoldsImage (s : State) : Prop := s.src.valid = true ∧ s.src.w ≠ 0 ∧ s.src.h ≠ 0

/-- GRAY holds an image that is neither nil nor empty (00_scope.md R19). -/
def State.grayHoldsImage (s : State) : Prop := s.gray.valid = true ∧ s.gray.w ≠ 0 ∧ s.gray.h ≠ 0

/-- The buffer a RESAMPLE names holds an image that is neither nil nor empty. -/
def State.holdsImage (s : State) : ImageBuffer → Prop
  | .src => s.srcHoldsImage
  | .gray => s.grayHoldsImage

/-- The exact conditions of `InvalidInput` (60_exceptions.md R231): (a) the buffer the command reads is nil, (b) the image it
reads is empty, (c) RESAMPLE with target width 0. -/
def InvalidInputCondition (s : State) : Instr → Prop
  | .srcDef _ _ _ => False
  | .rdcsr _ => False
  | .gray => ¬s.srcHoldsImage
  | .resampleX buf tw _ => ¬s.holdsImage buf ∨ tw = 0
  | .resampleA buf tw => ¬s.holdsImage buf ∨ tw = 0
  | .ditherT _ _ => ¬s.grayHoldsImage
  | .ditherFs _ _ => ¬s.grayHoldsImage
  | .ditherAtk _ _ => ¬s.grayHoldsImage
  | .ditherU _ _ _ => ¬s.grayHoldsImage
  | .bmpNew _ _ => False
  | .setPixel _ _ _ => s.bmp.valid = false
  | .getPixel _ _ => s.bmp.valid = false
  | .rasterBytes => s.bmp.valid = false
  | .encodeStd _ => s.bmp.valid = false
  | .encodeLarge _ => s.bmp.valid = false

/-- ENCODE.STD or ENCODE.LARGE. -/
def IsEncode (i : Instr) : Prop := ∃ m, i = .encodeStd m ∨ i = .encodeLarge m

/-- A RESAMPLE of `buf` to width `tw` and height `dh` gets past its earlier checks, scales, and needs more bytes than the
buffer's capacity (42_resampler.md R132). -/
def ResampleExceeds (s : State) (buf : ImageBuffer) (tw : Word) (dh : Nat) : Prop :=
  s.holdsImage buf ∧ tw ≠ 0 ∧ tw.toNat < (s.imageW buf).toNat ∧
    ¬Fits (tw.toNat * dh * s.imageChannels buf) (s.imageCap buf)

/-- A DITHER gets past its first check and its bitmap needs more bytes than `BMP_CAP` (43_dither.md R162). -/
def DitherExceeds (s : State) : Prop :=
  s.grayHoldsImage ∧ ¬Fits ((s.gray.w.toNat + 7) / 8 * s.gray.h.toNat) s.params.bmpCap

/-- An ENCODE with dimension fields of at most `lim` and `overhead` bytes before the payload gets past its earlier checks and
needs more bytes than `OUT_CAP` (45_encoder.md R209). -/
def EncodeExceeds (s : State) (overhead lim : Nat) : Prop :=
  s.profile.gfx = true ∧ s.bmp.valid = true ∧ s.bmp.stride ≠ 0 ∧ s.bmp.h ≠ 0 ∧
    s.bmp.stride.toNat ≤ lim ∧ s.bmp.h.toNat ≤ lim ∧ s.bmp.stride.toNat * s.bmp.h.toNat ≤ s.profile.maxBuf.toNat ∧
    ¬Fits (overhead + s.bmp.stride.toNat * s.bmp.h.toNat) s.params.outCap

/-- The exact conditions of `CapacityExceeded` (20_memory.md R72): past its earlier checks, the command's result needs more
bytes than the capacity of its destination buffer. -/
def CapacityExceededCondition (s : State) : Instr → Prop
  | .srcDef fmt w h => ¬Fits (w.toNat * h.toNat * channels fmt) s.params.srcCap
  | .rdcsr _ => False
  | .gray => s.srcHoldsImage ∧ ¬Fits (s.src.w.toNat * s.src.h.toNat) s.params.grayCap
  | .resampleX buf tw th => ResampleExceeds s buf tw th.toNat
  | .resampleA buf tw => ResampleExceeds s buf tw
      ((2 * (s.imageH buf).toNat * tw.toNat + (s.imageW buf).toNat) / (2 * (s.imageW buf).toNat))
  | .ditherT _ _ => DitherExceeds s
  | .ditherFs _ _ => DitherExceeds s
  | .ditherAtk _ _ => DitherExceeds s
  | .ditherU _ _ be => be = true ∧ DitherExceeds s
  | .bmpNew w h => ¬Fits ((w.toNat + 7) / 8 * h.toNat) s.params.bmpCap
  | .setPixel _ _ _ => False
  | .getPixel _ _ => False
  | .rasterBytes => False
  | .encodeStd _ => EncodeExceeds s (s.params.tagStd.bytes.length + 1 + 2 * 2) 65535
  | .encodeLarge _ => EncodeExceeds s (s.params.tagLarge.bytes.length + 1 + 2 * 4) 4294967295

/-- The four DITHER commands. -/
def IsDither (i : Instr) : Prop :=
  (∃ t be, i = .ditherT t be) ∨ (∃ t be, i = .ditherFs t be) ∨ (∃ t be, i = .ditherAtk t be) ∨
    ∃ mode t be, i = .ditherU mode t be

/-- A RESAMPLE of the given buffer. -/
def IsResampleOf (buf : ImageBuffer) (i : Instr) : Prop :=
  (∃ tw th, i = .resampleX buf tw th) ∨ ∃ tw, i = .resampleA buf tw

/-- A RESAMPLE of `buf` to width `tw` whose target height is `dh`: supplied explicitly (42_resampler.md R130), or
`floor((2 * sh * tw + sw) / (2 * sw))` (R131). -/
def ResampleTo (s : State) (buf : ImageBuffer) (tw : Word) (dh : Nat) (i : Instr) : Prop :=
  (∃ th : Word, i = .resampleX buf tw th ∧ dh = th.toNat) ∨
    (i = .resampleA buf tw ∧
      dh = (2 * (s.imageH buf).toNat * tw.toNat + (s.imageW buf).toNat) / (2 * (s.imageW buf).toNat))

/-- A result without what ACC holds: ACC is "dead when the command ends" (10_state.md R29). -/
def forgetAcc : Result → Result
  | .next t => .next { t with acc := [] }
  | .fault (.fatalStop u) => .fault (.fatalStop { u with acc := [] })
  | .fault (.halted c) => .fault (.halted c)
  | .refused r => .refused r

/-- Is a position inside an image of width `w` and height `h`? -/
def inImage (w h : Nat) (x y : Int) : Bool := decide (0 ≤ x) && decide (x < w) && decide (0 ≤ y) && decide (y < h)

/-- `err` at a position whose error-corrected value is given by `old`: `old - 0` if black, `old - 255` if white, and 0
outside the image, where no pixel is (43_dither.md R154). -/
def errorAt (w h : Nat) (t : Byte) (old : Int → Int → Int) (x y : Int) : Int :=
  if inImage w h x y then (if old x y ≤ t.toNat then old x y else old x y - 255) else 0

/-- The six neighbours of Atkinson's rule (43_dither.md R157). -/
def atkinsonNeighbours (x y : Int) : List (Int × Int) :=
  [(x + 1, y), (x + 2, y), (x - 1, y + 1), (x, y + 1), (x + 1, y + 1), (x, y + 2)]

/-- The set of black pixels that a list of SET_PIXEL operands leaves of an all-white bitmap (44_bitmap.md R186). -/
def blackSet (ops : List (Word × Word × Bool)) : List (Word × Word) :=
  ops.foldl (fun K o => if o.2.2 then (o.1, o.2.1) :: K else K.filter fun p => p != (o.1, o.2.1)) []

/-- The pixel `(x, y)` of BMP: true is black (20_memory.md R53). -/
def State.pixel (s : State) (x y : Nat) : Bool := s.bmp.mem.getPixel s.bmp.stride.toNat x y

/-- The four memories have their canonical form. -/
def State.memoriesCanonical (s : State) : Prop :=
  s.src.mem.wf Buffer.src.unlisted = true ∧ s.gray.mem.wf Buffer.gray.unlisted = true ∧
    s.bmp.mem.wf Buffer.bmp.unlisted = true ∧ s.out.mem.wf Buffer.out.unlisted = true

/-- No buffer lists a byte at or past its size (10_state.md R30, R32). -/
def State.contentsFit (s : State) : Prop :=
  s.src.mem.within s.src.size = true ∧ s.gray.mem.within s.gray.size = true ∧
    s.bmp.mem.within s.bmp.size = true ∧ s.out.mem.within s.out.size = true

/-- The MonochromeBitmap invariant on the stride (10_state.md R32). -/
def State.strideMatches (s : State) : Prop := s.bmp.valid = true → s.bmp.stride.toNat = strideOf s.bmp.w.toNat

/-- The padding bits of every row are 0 (20_memory.md R54). -/
def State.paddingClear (s : State) : Prop :=
  s.bmp.valid = true → ∀ x y : Nat, s.bmp.w.toNat ≤ x → x < 8 * s.bmp.stride.toNat → y < s.bmp.h.toNat →
    s.pixel x y = false

/-- `FATAL` and its cause agree: cause 0 exactly while `FATAL = 0` (10_state.md R24). -/
def State.causeMatches (s : State) : Prop :=
  (s.fatal = false → s.fatalCause = 0) ∧ (s.fatal = true → s.fatalCause = pixelOutOfRange)

/-- What holds of every state a run can be in. -/
structure State.Inv (s : State) : Prop where
  memories : s.memoriesCanonical
  fit      : s.contentsFit
  stride   : s.strideMatches
  padding  : s.paddingClear
  cause    : s.causeMatches
  params   : s.params.wf

end Sys2Proof.Machine
end

