-- ==== Sys2Proof/Certificates/Slice0/Obligations.lean ====
section
/-! DEFINITION. The statements for the provers, in the order of OBLIGATIONS.json. Each docstring names the rules of spec/ it
formalises; a clause that rests on a choice of the model names its log entry. -/

open Sys2Proof Sys2Proof.Machine

/-! ## The step -/

/-- A descriptor that decodes to a command is performed as that command, from the state in which the host's action is taken;
the block has no program counter to move (10_state.md R23; the queue of actions is the model's, log 1). -/
def Obligations.StepRunsThePresentedCommand : Prop :=
  ∀ (s : State) (d : Descriptor) (rest : List HostAction) (i : Instr),
    s.fatal = false → s.host = .command d :: rest → decode d = .ok i → step s = exec i { s with host := rest }

/-- R85: a descriptor that matches no row (an OPC of no row, a reserved bit, or RDCSR of an unlisted CSR number) ends with
`IllegalCommand` and changes no state, whatever the buffers hold. -/
def Obligations.IllegalDescriptorAnswersIllegalCommand : Prop :=
  ∀ (s : State) (d : Descriptor) (rest : List HostAction),
    s.fatal = false → s.host = .command d :: rest →
    (d.extractLsb' 0 8 ∉ [0x01#8, 0x02#8, 0x10#8, 0x11#8, 0x20#8, 0x30#8, 0x31#8, 0x32#8, 0x33#8, 0x40#8] ∨
      (∀ r ∈ opcodeTable, d &&& r.mask.descriptor ≠ r.pattern.descriptor) ∨
      (d.extractLsb' 0 8 = 0x02#8 ∧ ∀ n : Csr, n.number ≠ d.extractLsb' 8 8)) →
    step s = .next { s with host := rest, observed := s.observed ++ [.response .illegalCommand 0] }

/-- While `FATAL = 1` no step leads on: a command is stuck, a host access refused (10_state.md R24, 20_memory.md R62,
93_implementation_defined.md U16; the names of the stops are the model's, log 3). -/
def Obligations.HaltedBlockAcceptsNothing : Prop :=
  ∀ s : State, s.fatal = true →
    (∀ t, step s ≠ .next t) ∧
    (∀ d rest, s.host = .command d :: rest → step s = .fault (.halted s.fatalCause)) ∧
    (∀ sp a bs rest, s.host = .write sp a bs :: rest → step s = .refused .hostAccessWhileHalted) ∧
    (∀ sp a n rest, s.host = .read sp a n :: rest → step s = .refused .hostAccessWhileHalted)

/-! ## The host's accesses -/

/-- A host write into SRC stores its bytes and changes nothing else (20_memory.md R61, R63); a byte once written is no draw
any more. That a write of several bytes is one access, and that a write of no bytes is performed at every offset up to and
including the size, is the model's choice (log 14). -/
def Obligations.HostWriteStoresItsBytes : Prop :=
  ∀ (s : State) (a : Nat) (bs : List Byte) (rest : List HostAction),
    s.fatal = false → s.host = .write .src a bs :: rest → s.src.valid = true →
    a + bs.length ≤ s.src.w.toNat * s.src.h.toNat * channels s.src.fmt →
    ∃ t, step s = .next t ∧ t = { s with host := rest, src := { s.src with mem := t.src.mem } } ∧
      (∀ k, k < bs.length → t.byteAt .src (a + k) = bs.getD k 0) ∧
      ∀ o, o < a ∨ a + bs.length ≤ o → t.byteAt .src o = s.byteAt .src o

/-- A host read of SRC, GRAY, BMP or OUT gives the bytes and changes nothing (20_memory.md R60, R61). That a read of several
bytes is one access, and that a read of no bytes is performed at every offset up to and including the size, is the model's
choice (log 14). -/
def Obligations.HostReadReturnsTheBytes : Prop :=
  ∀ (s : State) (sp : Space) (b : Buffer) (a n : Nat) (rest : List HostAction),
    s.fatal = false → s.host = .read sp a n :: rest → readableBuffer sp = some b → s.memoriesCanonical →
    s.validBit b = true → a + n ≤ s.sizeOf b →
    ∃ bs : List Byte, step s = .next { s with host := rest, observed := s.observed ++ [.bytes bs] } ∧
      bs.length = n ∧ ∀ k, k < n → bs.getD k 0 = s.byteAt b (a + k)

/-- R62: a host access outside R61 has no step: an offset at or past the size, a nil buffer, a space the host cannot write
or reach, or `FATAL = 1`. Commands are atomic, so no access meets one in progress. -/
def Obligations.HostAccessOutsideTheTableIsRefused : Prop :=
  ∀ (s : State) (rest : List HostAction),
    (∀ sp a bs, s.host = .write sp a bs :: rest →
      (sp ≠ .src ∨ s.src.valid = false ∨
        (∃ k, k < bs.length ∧ s.src.w.toNat * s.src.h.toNat * channels s.src.fmt ≤ a + k) ∨ s.fatal = true) →
      ∃ r, step s = .refused r) ∧
    (∀ sp a n, s.host = .read sp a n :: rest →
      (sp = .acc ∨ (∃ b, readableBuffer sp = some b ∧ (s.validBit b = false ∨ ∃ k, k < n ∧ s.sizeOf b ≤ a + k)) ∨
        s.fatal = true) →
      ∃ r, step s = .refused r)

/-! ## Reset and the invariant -/

/-- After reset the four valid bits are 0 and `FATAL` is 0 with cause 0 (10_state.md R36, R24); every other register's value
is the model's choice (log 4, log 9) and is not stated. -/
def Obligations.ResetClearsValidBitsAndFatal : Prop :=
  (∀ b : Buffer, State.reset.validBit b = false) ∧ State.reset.fatal = false ∧ State.reset.fatalCause = 0

/-- The reset state meets the invariant. -/
def Obligations.ResetMeetsTheInvariant : Prop := State.reset.Inv

/-- Every step keeps the invariant: the memories stay canonical and inside their sizes, the stride is `ceil(w / 8)`, the
padding bits stay 0, `FATAL` and its cause agree. -/
def Obligations.StepKeepsTheInvariant : Prop :=
  ∀ s t : State, s.Inv → step s = .next t → t.Inv

/-- R32: after every step, whenever `BMP_VALID = 1`, `BMP_STRIDE = ceil(BMP_W / 8)` and the contents have exactly
`BMP_STRIDE * BMP_H` bytes; a bitmap of width or height 0 has empty contents. -/
def Obligations.BitmapContentsMatchItsDimensions : Prop :=
  ∀ s t : State, s.Inv → step s = .next t → t.bmp.valid = true →
    t.bmp.stride.toNat = (t.bmp.w.toNat + 7) / 8 ∧
    (t.contents .bmp).length = t.bmp.stride.toNat * t.bmp.h.toNat ∧
    (∀ c ∈ t.bmp.mem, c.1 < t.bmp.stride.toNat * t.bmp.h.toNat) ∧
    (t.bmp.w = 0 ∨ t.bmp.h = 0 → t.contents .bmp = [])

/-- R54: when `BMP_W mod 8 != 0`, the low `8 - (BMP_W mod 8)` bits of the last byte of every row are 0 after every step. -/
def Obligations.PaddingBitsStayZero : Prop :=
  ∀ (s t : State) (y : Nat), s.Inv → step s = .next t → t.bmp.valid = true → t.bmp.w.toNat % 8 ≠ 0 →
    y < t.bmp.h.toNat →
    (t.byteAt .bmp (y * t.bmp.stride.toNat + (t.bmp.stride.toNat - 1))).toNat % 2 ^ (8 - t.bmp.w.toNat % 8) = 0

/-! ## Rules of the whole machine -/

/-- No step clears a valid bit (10_state.md R22, 70_reset_and_hazards.md R260). -/
def Obligations.ValidBitsStayOne : Prop :=
  ∀ (s t : State) (b : Buffer), step s = .next t → s.validBit b = true → t.validBit b = true

/-- R240: a command that raises an error leaves the state as it was, but for its own response, whose data is 0. -/
def Obligations.ErrorsChangeNothing : Prop :=
  ∀ (i : Instr) (s t : State) (c : Code) (d : DWord),
    exec i s = .next t → t.observed = s.observed ++ [.response c d] → c ≠ .ok →
    t = { s with observed := s.observed ++ [.response c 0] }

/-- Every command that is answered ends with one response, whose data is 0 unless the code is `OK` (30_encoding.md R92); the
host's other actions wait. -/
def Obligations.EveryAnsweredCommandGivesOneResponse : Prop :=
  ∀ (i : Instr) (s t : State), exec i s = .next t →
    t.host = s.host ∧ ∃ c d, t.observed = s.observed ++ [.response c d] ∧ (c ≠ .ok → d = 0)

/-- Each buffer is changed by its writers alone (10_state.md R21, R31, R33, 20_memory.md R50): the source image, the
GrayscaleImage "immutable once produced", the bitmap, the RasterCommand, the accumulator. -/
def Obligations.BuffersChangeOnlyByTheirWriters : Prop :=
  ∀ (i : Instr) (s t : State), exec i s = .next t →
    (t.src ≠ s.src → (∃ fmt w h, i = .srcDef fmt w h) ∨ IsResampleOf .src i) ∧
    (t.gray ≠ s.gray → i = .gray ∨ IsResampleOf .gray i) ∧
    (t.bmp ≠ s.bmp → IsDither i ∨ (∃ w h, i = .bmpNew w h) ∨ ∃ x y b, i = .setPixel x y b) ∧
    (t.out ≠ s.out → ∃ m, i = .encodeStd m ∨ i = .encodeLarge m) ∧
    (t.acc ≠ s.acc → IsDither i)

/-- The profile inputs, `FATAL` and its cause are the same after every step that answers a next state (10_state.md R24, R27,
R28), and so are the parameters, which are configuration (R37) and which State carries by the model's choice (log 10). -/
def Obligations.ProfileParametersAndFatalAreKept : Prop :=
  ∀ s t : State, step s = .next t →
    t.profile = s.profile ∧ t.params = s.params ∧ t.fatal = s.fatal ∧ t.fatalCause = s.fatalCause

/-- ACC is dead between commands (10_state.md R29): what it holds changes nothing a command does or answers. -/
def Obligations.AccumulatorIsDeadBetweenCommands : Prop :=
  ∀ (i : Instr) (s : State) (a : List Int), forgetAcc (exec i { s with acc := a }) = forgetAcc (exec i s)

/-- R241: a command stops the block exactly when it is SET_PIXEL or GET_PIXEL of a coordinate outside a valid bitmap; then
`FATAL = 1`, cause 1, and nothing else is written; and no step leads on from a halted block. -/
def Obligations.FatalStopExactlyOutsideTheBitmap : Prop :=
  (∀ (i : Instr) (s : State) (f : Fault), exec i s = .fault f ↔
    ∃ x y : Word, ((∃ b, i = .setPixel x y b) ∨ i = .getPixel x y) ∧ s.bmp.valid = true ∧
      (s.bmp.w.toNat ≤ x.toNat ∨ s.bmp.h.toNat ≤ y.toNat) ∧
      f = .fatalStop { s with fatal := true, fatalCause := 1 }) ∧
  ∀ u t : State, u.fatal = true → step u ≠ .next t

/-- A command is refused exactly when it is an ENCODE with `PROF_GFX = 0` (45_encoder.md R202; the refusal's name is the
model's). -/
def Obligations.OnlyEncodeWithoutGraphicsIsRefused : Prop :=
  ∀ (i : Instr) (s : State) (r : Refusal), exec i s = .refused r ↔
    (∃ m, i = .encodeStd m ∨ i = .encodeLarge m) ∧ s.profile.gfx = false ∧ r = .graphicsUnsupported

/-! ## The errors' exact conditions -/

/-- R231: `InvalidInput` is answered exactly under its conditions, whatever `PROF_GFX` is, but for ENCODE, the one command
that reads it and has a meaning only when it is 1 (45_encoder.md R202). -/
def Obligations.InvalidInputExactly : Prop :=
  ∀ (i : Instr) (s : State), (IsEncode i → s.profile.gfx = true) →
    (Answers i s .invalidInput ↔ InvalidInputCondition s i)

/-- R161: DITHER.U runs Threshold on the opt-in and is `UnsupportedDitherMode` without it, changing nothing; `BE` has no
effect in the other three; no other command answers that code. -/
def Obligations.UnsupportedModeFallsBackOnlyOnOptIn : Prop :=
  (∀ (mode t : Byte) (be : Bool) (s : State), exec (.ditherU mode t true) s = exec (.ditherT t be) s) ∧
  (∀ (mode t : Byte) (s : State), s.grayHoldsImage →
    exec (.ditherU mode t false) s =
      .next { s with observed := s.observed ++ [.response .unsupportedDitherMode 0] }) ∧
  (∀ (t : Byte) (b b' : Bool) (s : State),
    exec (.ditherT t b) s = exec (.ditherT t b') s ∧ exec (.ditherFs t b) s = exec (.ditherFs t b') s ∧
      exec (.ditherAtk t b) s = exec (.ditherAtk t b') s) ∧
  ∀ (i : Instr) (s : State), Answers i s .unsupportedDitherMode → ∃ mode t, i = .ditherU mode t false

/-- R233, R234, R235: `EmptyImage`, `BufferOverflow` and `DimensionOutOfRange` are answered exactly under their conditions,
in the order of the encoder's steps, and by ENCODE alone. -/
def Obligations.EncoderErrorsExactly : Prop :=
  (∀ (i : Instr) (s : State) (c : Code), c = .emptyImage ∨ c = .bufferOverflow ∨ c = .dimensionOutOfRange →
    Answers i s c → ∃ m, i = .encodeStd m ∨ i = .encodeLarge m) ∧
  ∀ (m : PrintMode) (s : State), s.profile.gfx = true →
    let wb := s.bmp.stride.toNat
    let h := s.bmp.h.toNat
    (Answers (.encodeStd m) s .emptyImage ↔ s.bmp.valid = true ∧ (wb = 0 ∨ h = 0)) ∧
    (Answers (.encodeLarge m) s .emptyImage ↔ s.bmp.valid = true ∧ (wb = 0 ∨ h = 0)) ∧
    (Answers (.encodeStd m) s .dimensionOutOfRange ↔
      s.bmp.valid = true ∧ wb ≠ 0 ∧ h ≠ 0 ∧ (65535 < wb ∨ 65535 < h)) ∧
    (Answers (.encodeStd m) s .bufferOverflow ↔
      s.bmp.valid = true ∧ wb ≠ 0 ∧ h ≠ 0 ∧ wb ≤ 65535 ∧ h ≤ 65535 ∧ s.profile.maxBuf.toNat < wb * h) ∧
    (Answers (.encodeLarge m) s .bufferOverflow ↔
      s.bmp.valid = true ∧ wb ≠ 0 ∧ h ≠ 0 ∧ s.profile.maxBuf.toNat < wb * h)

/-- R214: in the large framing step 3 never fails, since a bitmap's byte width is at most 536870912 and its height fits 32
bits; `DimensionOutOfRange` comes from ENCODE.STD alone. -/
def Obligations.LargeFramingHoldsEveryBitmap : Prop :=
  (∀ s : State, s.strideMatches → s.bmp.valid = true →
    s.bmp.stride.toNat ≤ 536870912 ∧ s.bmp.h.toNat ≤ 4294967295) ∧
  ∀ (i : Instr) (s : State), Answers i s .dimensionOutOfRange → ∃ m, i = .encodeStd m

/-- R72: a command answers `CapacityExceeded` exactly when, past its earlier checks, its result needs more bytes than the
capacity of its destination buffer, and then changes nothing; with unbounded capacities no command answers it. -/
def Obligations.CapacityExceededExactly : Prop :=
  (∀ (i : Instr) (s : State), Answers i s .capacityExceeded ↔ CapacityExceededCondition s i) ∧
  (∀ (i : Instr) (s : State), CapacityExceededCondition s i →
    exec i s = .next { s with observed := s.observed ++ [.response .capacityExceeded 0] }) ∧
  ∀ (i : Instr) (s : State), s.params.srcCap = none → s.params.grayCap = none → s.params.bmpCap = none →
    s.params.outCap = none → ¬Answers i s .capacityExceeded

/-! ## SRC_DEF and RDCSR -/

/-- SRC_DEF declares the image, answers its size in bytes, and leaves every byte of SRC a draw (40_source_and_system.md R110,
20_memory.md R63). A size that does not fit the 64-bit response leaves the data open (log 8). -/
def Obligations.SrcDefDeclaresTheImage : Prop :=
  ∀ (s : State) (fmt : PixelFormat) (w h : Word),
    let n := w.toNat * h.toNat * (match fmt with | .gray8 => 1 | .rgb888 => 3)
    Fits n s.params.srcCap →
    ∃ t d, exec (.srcDef fmt w h) s = .next t ∧
      t = { s with src := ⟨w, h, fmt, true, []⟩, srcEpoch := t.srcEpoch, draws := t.draws,
                   observed := s.observed ++ [.response .ok d] } ∧
      (n < 2 ^ 64 → d.toNat = n ∧ t.draws = s.draws) ∧
      s.srcEpoch < t.srcEpoch ∧ ∀ a, t.byteAt .src a = Config.freeSrcByte t.srcEpoch a

/-- RDCSR answers the register, zero-extended, and changes no architectural state (40_source_and_system.md R111, 10_state.md
R26); a descriptor register whose buffer is nil answers an arbitrary value (R36). That this value is no wider than the
register is the model's deduction from the `zext_64` of R111, and the counter of free values is the model's (log 5). -/
def Obligations.RdcsrReadsTheRegister : Prop :=
  ∀ s : State,
    let reads := fun (n : Csr) (v : Nat) =>
      v < 2 ^ 64 ∧ exec (.rdcsr n) s = .next { s with observed := s.observed ++ [.response .ok (BitVec.ofNat 64 v)] }
    let draws := fun (n : Csr) (bits : Nat) => ∃ v, v < 2 ^ bits ∧ exec (.rdcsr n) s =
      .next { s with draws := s.draws + 1, observed := s.observed ++ [.response .ok (BitVec.ofNat 64 v)] }
    let bit := fun b : Bool => if b then 1 else 0
    reads .profMaxBuf s.profile.maxBuf.toNat ∧ reads .profGfx (bit s.profile.gfx) ∧
    reads .srcValid (bit s.src.valid) ∧ reads .grayValid (bit s.gray.valid) ∧ reads .bmpValid (bit s.bmp.valid) ∧
    reads .outValid (bit s.out.valid) ∧
    (s.src.valid = true → reads .srcW s.src.w.toNat ∧ reads .srcH s.src.h.toNat ∧
      reads .srcFmt (match s.src.fmt with | .gray8 => 0 | .rgb888 => 1)) ∧
    (s.gray.valid = true → reads .grayW s.gray.w.toNat ∧ reads .grayH s.gray.h.toNat) ∧
    (s.bmp.valid = true → reads .bmpW s.bmp.w.toNat ∧ reads .bmpH s.bmp.h.toNat ∧ reads .bmpStride s.bmp.stride.toNat) ∧
    (s.out.valid = true → reads .outLen s.out.len.toNat) ∧
    (s.src.valid = false → draws .srcW 32 ∧ draws .srcH 32 ∧ draws .srcFmt 1) ∧
    (s.gray.valid = false → draws .grayW 32 ∧ draws .grayH 32) ∧
    (s.bmp.valid = false → draws .bmpW 32 ∧ draws .bmpH 32 ∧ draws .bmpStride 32) ∧
    (s.out.valid = false → draws .outLen 64)

/-! ## GRAY -/

/-- R121: the luminance formula, its result in 0..255 without wrap-around, equal channels giving themselves, and the rule's
vectors. -/
def Obligations.LuminanceIsTheRoundedWeightedMean : Prop :=
  (∀ r g b : Byte, (luma r g b).toNat = (19595 * r.toNat + 38470 * g.toNat + 7471 * b.toNat + 32768) / 65536 ∧
    19595 * r.toNat + 38470 * g.toNat + 7471 * b.toNat + 32768 < 2 ^ 24) ∧
  (∀ v : Byte, luma v v v = v) ∧
  luma 255 0 0 = 76 ∧ luma 0 255 0 = 150 ∧ luma 0 0 255 = 29 ∧ luma 255 255 0 = 226 ∧ luma 12 34 56 = 30 ∧
    luma 200 100 50 = 124

/-- GRAY of an image that is neither nil nor empty makes GRAY a whole image of identical dimensions, each sample the byte
itself for GRAY8 and the luminance of its three bytes for RGB888, answers the dimensions, and changes nothing else
(41_grayscale.md R120, R122). -/
def Obligations.GrayConvertsEveryPixel : Prop :=
  ∀ s : State, s.memoriesCanonical → s.srcHoldsImage → Fits (s.src.w.toNat * s.src.h.toNat) s.params.grayCap →
    ∃ t, exec .gray s = .next t ∧
      t = { s with gray := t.gray,
                   observed := s.observed ++ [.response .ok (BitVec.ofNat 64 (s.src.w.toNat + s.src.h.toNat * 2 ^ 32))] } ∧
      t.gray.w = s.src.w ∧ t.gray.h = s.src.h ∧ t.gray.valid = true ∧
      ∀ x y, x < s.src.w.toNat → y < s.src.h.toNat →
        let p := y * s.src.w.toNat + x
        t.byteAt .gray p = match s.src.fmt with
          | .gray8 => s.byteAt .src p
          | .rgb888 => luma (s.byteAt .src (p * 3)) (s.byteAt .src (p * 3 + 1)) (s.byteAt .src (p * 3 + 2))

/-! ## RESAMPLE -/

/-- R134: a target width not below the source width passes the image through unchanged, whatever the explicit height is,
and answers the unchanged dimensions. -/
def Obligations.ResamplePassesThroughWideTargets : Prop :=
  ∀ (s : State) (buf : ImageBuffer) (tw th : Word), s.holdsImage buf → tw ≠ 0 → (s.imageW buf).toNat ≤ tw.toNat →
    let t := { s with observed := s.observed ++
      [.response .ok (BitVec.ofNat 64 ((s.imageW buf).toNat + (s.imageH buf).toNat * 2 ^ 32))] }
    exec (.resampleX buf tw th) s = .next t ∧ exec (.resampleA buf tw) s = .next t

/-- A RESAMPLE that scales replaces the selected buffer whole by the filter's samples, with the target dimensions, keeps
`SRC_FMT`, answers the new dimensions and changes nothing else (42_resampler.md R130, R131, R132), for every filter; of a
filter that is not `BILINEAR` the samples are known only to be a function of its arguments (R136, log 12). -/
def Obligations.ResampleReplacesTheBuffer : Prop :=
  ∀ (s : State) (buf : ImageBuffer) (tw : Word) (dh : Nat) (i : Instr),
    ResampleTo s buf tw dh i → s.holdsImage buf → tw ≠ 0 → tw.toNat < (s.imageW buf).toNat →
    Fits (tw.toNat * dh * s.imageChannels buf) (s.imageCap buf) →
    ∃ t, exec i s = .next t ∧
      t = { s with src := t.src, gray := t.gray,
                   observed := s.observed ++ [.response .ok (BitVec.ofNat 64 (tw.toNat + dh * 2 ^ 32))] } ∧
      (t.imageW buf).toNat = tw.toNat ∧ (t.imageH buf).toNat = dh ∧ t.validBit (bufferOf buf) = true ∧
      (buf = .src → t.gray = s.gray ∧ t.src.fmt = s.src.fmt) ∧ (buf = .gray → t.src = s.src) ∧
      ∀ k, k < tw.toNat * dh * s.imageChannels buf → t.byteAt (bufferOf buf) k =
        (filterImage s.params.filter (s.imageSamples buf) (s.imageW buf).toNat (s.imageH buf).toNat
          (s.imageChannels buf) tw.toNat dh).getD k 0

/-- Each sample of a `BILINEAR` result is the centre-aligned, edge-replicated, rounded weighted sum of four source bytes
(42_resampler.md R137). -/
def Obligations.BilinearSamplesFollowTheFormula : Prop :=
  ∀ (s t : State) (buf : ImageBuffer) (tw : Word) (dh : Nat) (i : Instr),
    ResampleTo s buf tw dh i → s.memoriesCanonical → s.holdsImage buf → tw ≠ 0 → tw.toNat < (s.imageW buf).toNat →
    Fits (tw.toNat * dh * s.imageChannels buf) (s.imageCap buf) → s.params.filter = .bilinear →
    exec i s = .next t →
    let sw : Int := (s.imageW buf).toNat
    let sh : Int := (s.imageH buf).toNat
    let dw : Int := tw.toNat
    let ch := s.imageChannels buf
    ∀ dx dy c : Nat, dx < tw.toNat → dy < dh → c < ch →
      ∃ x0 fx y0 fy : Int,
        0 ≤ fx ∧ fx < 2 * dw ∧ (2 * dx + 1) * sw - dw = x0 * (2 * dw) + fx ∧
        0 ≤ fy ∧ fy < 2 * dh ∧ (2 * dy + 1) * sh - dh = y0 * (2 * dh) + fy ∧
        let xa := min (max x0 0) (sw - 1)
        let xb := min (max (x0 + 1) 0) (sw - 1)
        let ya := min (max y0 0) (sh - 1)
        let yb := min (max (y0 + 1) 0) (sh - 1)
        let at' := fun x y : Int => ((s.byteAt (bufferOf buf) (((y * sw + x) * ch + c).toNat)).toNat : Int)
        let N := (2 * dw - fx) * (2 * dh - fy) * at' xa ya + fx * (2 * dh - fy) * at' xb ya
          + (2 * dw - fx) * fy * at' xa yb + fx * fy * at' xb yb
        let D := 2 * dw * (2 * dh)
        ((t.byteAt (bufferOf buf) ((dy * tw.toNat + dx) * ch + c)).toNat : Int) = (2 * N + D) / (2 * D)

/-- R138: (a) a sample lies between the least and the greatest of the four it reads; (b) a constant image stays constant;
(c) halving both dimensions gives the rounded mean of each two-by-two block; (d), that the result is a function of the
arguments, is the type of `bilinearSample`. -/
def Obligations.BilinearPropertiesHold : Prop :=
  (∀ (S : List Byte) (sw sh ch dw dh dx dy c lo hi : Nat), 0 < dw → 0 < dh → 0 < sw → 0 < sh →
    (∀ x y, x = (axisTap dx sw dw).a ∨ x = (axisTap dx sw dw).b → y = (axisTap dy sh dh).a ∨ y = (axisTap dy sh dh).b →
      lo ≤ sampleAt S sw ch c x y ∧ sampleAt S sw ch c x y ≤ hi) →
    lo ≤ bilinearSample S sw sh ch dw dh dx dy c ∧ bilinearSample S sw sh ch dw dh dx dy c ≤ hi) ∧
  (∀ (v : Byte) (sw sh ch dw dh : Nat), 0 < dw → dw < sw → 0 < sh →
    bilinear (List.replicate (sw * sh * ch) v) sw sh ch dw dh = List.replicate (dw * dh * ch) v) ∧
  (∀ (S : List Byte) (ch dw dh dx dy c : Nat), dx < dw → dy < dh →
    bilinearSample S (2 * dw) (2 * dh) ch dw dh dx dy c =
      (sampleAt S (2 * dw) ch c (2 * dx) (2 * dy) + sampleAt S (2 * dw) ch c (2 * dx + 1) (2 * dy) +
        sampleAt S (2 * dw) ch c (2 * dx) (2 * dy + 1) + sampleAt S (2 * dw) ch c (2 * dx + 1) (2 * dy + 1) + 2) / 4)

/-- R139: a target height of 0 below the source width succeeds and leaves an empty image of the target width, and every
consumer of that empty image answers `InvalidInput`. -/
def Obligations.EmptyResampleResultIsRejectedLater : Prop :=
  ∀ (s : State) (buf : ImageBuffer) (tw : Word) (i : Instr),
    ResampleTo s buf tw 0 i → s.holdsImage buf → tw ≠ 0 → tw.toNat < (s.imageW buf).toNat →
    ∃ t, exec i s = .next t ∧ (t.imageW buf).toNat = tw.toNat ∧ (t.imageH buf).toNat = 0 ∧
      t.validBit (bufferOf buf) = true ∧ t.observed = s.observed ++ [.response .ok (BitVec.ofNat 64 tw.toNat)] ∧
      let rejected := fun j => exec j t = .next { t with observed := t.observed ++ [.response .invalidInput 0] }
      (∀ tw' th', rejected (.resampleX buf tw' th') ∧ rejected (.resampleA buf tw')) ∧
      (buf = .src → rejected .gray) ∧
      (buf = .gray → ∀ mode thr be, rejected (.ditherT thr be) ∧ rejected (.ditherFs thr be) ∧
        rejected (.ditherAtk thr be) ∧ rejected (.ditherU mode thr be))

/-! ## DITHER -/

/-- DITHER.T, and DITHER.U on the opt-in, make each pixel black exactly when its sample is `<= t`, in a new bitmap of the
image's dimensions, answer the dimensions, and change nothing but BMP and ACC (43_dither.md R152, R155, R161, R162). -/
def Obligations.ThresholdDecidesEachPixel : Prop :=
  ∀ (s : State) (thr : Byte) (i : Instr), (∃ be, i = .ditherT thr be) ∨ (∃ mode, i = .ditherU mode thr true) →
    s.memoriesCanonical → s.grayHoldsImage → Fits ((s.gray.w.toNat + 7) / 8 * s.gray.h.toNat) s.params.bmpCap →
    ∃ t, exec i s = .next t ∧
      t = { s with bmp := t.bmp, acc := t.acc,
                   observed := s.observed ++ [.response .ok (BitVec.ofNat 64 (s.gray.w.toNat + s.gray.h.toNat * 2 ^ 32))] } ∧
      t.bmp.w = s.gray.w ∧ t.bmp.h = s.gray.h ∧ t.bmp.stride.toNat = (s.gray.w.toNat + 7) / 8 ∧ t.bmp.valid = true ∧
      ∀ x y, x < s.gray.w.toNat → y < s.gray.h.toNat →
        t.pixel x y = decide ((s.byteAt .gray (y * s.gray.w.toNat + x)).toNat ≤ thr.toNat)

/-- DITHER.FS tests at each pixel its sample plus the truncated shares 7/16, 3/16, 5/16, 1/16 of the errors of its left,
upper right, upper and upper left neighbours inside the image, in a new bitmap of the image's dimensions, answers the
dimensions, and changes nothing but BMP and ACC (43_dither.md R151 to R160, R156, R162, R164). -/
def Obligations.FloydSteinbergGathersItsErrors : Prop :=
  ∀ (s : State) (thr : Byte) (be : Bool),
    s.memoriesCanonical → s.grayHoldsImage → Fits ((s.gray.w.toNat + 7) / 8 * s.gray.h.toNat) s.params.bmpCap →
    ∃ (t : State) (old : Int → Int → Int), exec (.ditherFs thr be) s = .next t ∧
      t = { s with bmp := t.bmp, acc := t.acc,
                   observed := s.observed ++ [.response .ok (BitVec.ofNat 64 (s.gray.w.toNat + s.gray.h.toNat * 2 ^ 32))] } ∧
      t.bmp.w = s.gray.w ∧ t.bmp.h = s.gray.h ∧ t.bmp.stride.toNat = (s.gray.w.toNat + 7) / 8 ∧ t.bmp.valid = true ∧
      ∀ x y : Nat, x < s.gray.w.toNat → y < s.gray.h.toNat →
        let err := errorAt s.gray.w.toNat s.gray.h.toNat thr old
        old x y = (s.byteAt .gray (y * s.gray.w.toNat + x)).toNat + (err (x - 1) y * 7).tdiv 16 +
          (err (x + 1) (y - 1) * 3).tdiv 16 + (err x (y - 1) * 5).tdiv 16 + (err (x - 1) (y - 1) * 1).tdiv 16 ∧
        t.pixel x y = decide (old x y ≤ thr.toNat)

/-- DITHER.ATK tests at each pixel its sample plus one truncated eighth of the error of each of the six pixels inside the
image that it is a neighbour of, in a new bitmap of the image's dimensions, answers the dimensions, and changes nothing but
BMP and ACC (43_dither.md R151 to R160, R157, R162, R164). -/
def Obligations.AtkinsonGathersItsErrors : Prop :=
  ∀ (s : State) (thr : Byte) (be : Bool),
    s.memoriesCanonical → s.grayHoldsImage → Fits ((s.gray.w.toNat + 7) / 8 * s.gray.h.toNat) s.params.bmpCap →
    ∃ (t : State) (old : Int → Int → Int), exec (.ditherAtk thr be) s = .next t ∧
      t = { s with bmp := t.bmp, acc := t.acc,
                   observed := s.observed ++ [.response .ok (BitVec.ofNat 64 (s.gray.w.toNat + s.gray.h.toNat * 2 ^ 32))] } ∧
      t.bmp.w = s.gray.w ∧ t.bmp.h = s.gray.h ∧ t.bmp.stride.toNat = (s.gray.w.toNat + 7) / 8 ∧ t.bmp.valid = true ∧
      ∀ x y : Nat, x < s.gray.w.toNat → y < s.gray.h.toNat →
        let err := errorAt s.gray.w.toNat s.gray.h.toNat thr old
        old x y = (s.byteAt .gray (y * s.gray.w.toNat + x)).toNat + (err (x - 1) y).tdiv 8 + (err (x - 2) y).tdiv 8 +
          (err (x + 1) (y - 1)).tdiv 8 + (err x (y - 1)).tdiv 8 + (err (x - 1) (y - 1)).tdiv 8 +
          (err x (y - 2)).tdiv 8 ∧
        t.pixel x y = decide (old x y ≤ thr.toNat)

/-- R158: of the shares of an error, each cell inside the image gains exactly those aimed at it; a share aimed outside is
added nowhere. -/
def Obligations.SharesOutsideTheImageAreDropped : Prop :=
  ∀ (mode : DitherMode) (w h x y : Nat) (err : Int) (acc : List Int), acc.length = w * h → x < w → y < h →
    (diffuse mode w h x y err acc).length = w * h ∧
    ∀ x' y' : Nat, x' < w → y' < h →
      cellAt (diffuse mode w h x y err acc) (y' * w + x') = cellAt acc (y' * w + x') +
        (((errorShares mode err).filter fun e => x + e.1 == (x' : Int) && y + e.2.1 == (y' : Int)).map fun e => e.2.2).sum

/-- R165: at every point of the scan, also between the shares of one pixel, every accumulator cell lies in
`min(0, t - 254) .. 255 + t`, every error in `min(0, t - 254) .. t`, every product `err * 7` in `-1778 .. 1785`; so 10 signed
bits hold every cell. -/
def Obligations.AccumulatorStaysInItsRange : Prop :=
  ∀ (mode : DitherMode) (t : Byte) (w h n k : Nat) (samples : List Byte), samples.length = w * h → n < w * h →
    let lo : Int := min 0 (t.toNat - 254)
    let d := ((scanOrder w h).take n).foldl (ditherPixel mode t w h) ⟨initialAcc samples, []⟩
    let p := (scanOrder w h).getD n (0, 0)
    let old := cellAt d.acc (p.2 * w + p.1)
    let new : Int := if old ≤ t.toNat then 0 else 255
    let partly := ((errorShares mode (old - new)).take k).foldl
      (fun a e => addShare w h a (p.1 + e.1) (p.2 + e.2.1) e.2.2) (d.acc.set (p.2 * w + p.1) new)
    (∀ v ∈ d.acc, lo ≤ v ∧ v ≤ 255 + t.toNat) ∧ (∀ v ∈ partly, lo ≤ v ∧ v ≤ 255 + t.toNat) ∧
    -254 ≤ lo ∧ (255 + t.toNat : Int) ≤ 510 ∧ lo ≤ old - new ∧ old - new ≤ t.toNat ∧
    -1778 ≤ (old - new) * 7 ∧ (old - new) * 7 ≤ 1785 ∧
    ∀ bits, 10 ≤ bits → ∀ v ∈ partly, -(2 : Int) ^ (bits - 1) ≤ v ∧ v < (2 : Int) ^ (bits - 1)

/-- R166: the error a pixel gives away in Atkinson mode is `k * tdiv(err, 8)` for the `k` of its six neighbours inside the
image, no other cell changes, and it is at most 3/4 of the error in magnitude, equal exactly for multiples of 8. -/
def Obligations.AtkinsonConservesError : Prop :=
  ∀ (w h x y : Nat) (err : Int) (acc : List Int), acc.length = w * h → x < w → y < h →
    (diffuse .atkinson w h x y err acc).sum =
      acc.sum + ((atkinsonNeighbours x y).countP fun p => inImage w h p.1 p.2) * err.tdiv 8 ∧
    (∀ x' y' : Nat, x' < w → y' < h → ((x' : Int), (y' : Int)) ∉ atkinsonNeighbours x y →
      cellAt (diffuse .atkinson w h x y err acc) (y' * w + x') = cellAt acc (y' * w + x')) ∧
    4 * |6 * err.tdiv 8| ≤ 3 * |err| ∧ (4 * |6 * err.tdiv 8| = 3 * |err| ↔ 8 ∣ err)

/-- R167: DITHER reads GRAY, its operands and the capacity of BMP, and nothing else: from every two states with the same GRAY
and `BMP_CAP`, whatever else they hold, it gives the same response, and on `OK` the same bitmap, on an error no change at
all; and run again after itself it gives the same response and the same bitmap again. -/
def Obligations.DitherDependsOnGrayAlone : Prop :=
  ∀ (i : Instr) (s s' : State), IsDither i → s'.gray = s.gray → s'.params.bmpCap = s.params.bmpCap →
    ∃ (t t' : State) (c : Code) (d : DWord), exec i s = .next t ∧ exec i s' = .next t' ∧
      t.observed = s.observed ++ [.response c d] ∧ t'.observed = s'.observed ++ [.response c d] ∧
      (c = .ok → t'.bmp = t.bmp) ∧
      (c ≠ .ok → t = { s with observed := t.observed } ∧ t' = { s' with observed := t'.observed }) ∧
      ∃ u, exec i t = .next u ∧ u.bmp = t.bmp ∧ u.observed = t.observed ++ [.response c d]

/-! ## The bitmap -/

/-- BMP_NEW makes an all-white bitmap of the given dimensions, zero ones included, answers its size in bytes, and changes
nothing but BMP (44_bitmap.md R180). -/
def Obligations.BmpNewIsAllWhite : Prop :=
  ∀ (s : State) (w h : Word), Fits ((w.toNat + 7) / 8 * h.toNat) s.params.bmpCap →
    ∃ t, exec (.bmpNew w h) s = .next t ∧
      t = { s with bmp := t.bmp,
                   observed := s.observed ++ [.response .ok (BitVec.ofNat 64 ((w.toNat + 7) / 8 * h.toNat))] } ∧
      t.bmp.w = w ∧ t.bmp.h = h ∧ t.bmp.stride.toNat = (w.toNat + 7) / 8 ∧ t.bmp.valid = true ∧
      (t.contents .bmp) = List.replicate ((w.toNat + 7) / 8 * h.toNat) 0 ∧ ∀ x y, t.pixel x y = false

/-- SET_PIXEL of a coordinate inside the bitmap gives that pixel its value, answers 0, and changes no other bit of BMP and
nothing else; setting a pixel to the value it has changes nothing (44_bitmap.md R181, R184). -/
def Obligations.SetPixelChangesOneBit : Prop :=
  ∀ (s : State) (x y : Word) (black : Bool), s.Inv → s.bmp.valid = true → x.toNat < s.bmp.w.toNat →
    y.toNat < s.bmp.h.toNat →
    ∃ t, exec (.setPixel x y black) s = .next t ∧
      t = { s with bmp := { s.bmp with mem := t.bmp.mem }, observed := s.observed ++ [.response .ok 0] } ∧
      t.pixel x.toNat y.toNat = black ∧
      (∀ x' y', x' < 8 * s.bmp.stride.toNat → ¬(x' = x.toNat ∧ y' = y.toNat) → t.pixel x' y' = s.pixel x' y') ∧
      (∀ a, a ≠ y.toNat * s.bmp.stride.toNat + x.toNat / 8 → t.byteAt .bmp a = s.byteAt .bmp a) ∧
      (s.pixel x.toNat y.toNat = black → t.bmp = s.bmp)

/-- GET_PIXEL of a coordinate inside the bitmap answers bit `7 - (x mod 8)` of byte `y * BMP_STRIDE + floor(x / 8)` and
changes nothing (44_bitmap.md R182). -/
def Obligations.GetPixelReadsOneBit : Prop :=
  ∀ (s : State) (x y : Word), s.bmp.valid = true → x.toNat < s.bmp.w.toNat → y.toNat < s.bmp.h.toNat →
    exec (.getPixel x y) s = .next { s with observed := s.observed ++ [.response .ok (BitVec.ofNat 64
      ((s.byteAt .bmp (y.toNat * s.bmp.stride.toNat + x.toNat / 8)).toNat / 2 ^ (7 - x.toNat % 8) % 2))] }

/-- RASTER_BYTES answers `BMP_STRIDE * BMP_H` and changes nothing (44_bitmap.md R183). -/
def Obligations.RasterBytesGivesTheLength : Prop :=
  ∀ s : State, s.bmp.valid = true →
    exec .rasterBytes s = .next { s with observed := s.observed ++
      [.response .ok (BitVec.ofNat 64 (s.bmp.stride.toNat * s.bmp.h.toNat))] } ∧
    s.bmp.stride.toNat * s.bmp.h.toNat < 2 ^ 64

/-- R186: after BMP_NEW and any SET_PIXEL commands inside the bitmap, GET_PIXEL answers 1 exactly for the coordinates set
black and not set white since. -/
def Obligations.PixelsRoundTrip : Prop :=
  ∀ (s : State) (w h : Word) (ops : List (Word × Word × Bool)), Fits ((w.toNat + 7) / 8 * h.toNat) s.params.bmpCap →
    (∀ o ∈ ops, o.1.toNat < w.toNat ∧ o.2.1.toNat < h.toNat) →
    ∃ t, execAll (.bmpNew w h :: ops.map fun o => .setPixel o.1 o.2.1 o.2.2) s = .next t ∧
      ∀ x y : Word, x.toNat < w.toNat → y.toNat < h.toNat →
        exec (.getPixel x y) t = .next { t with observed := t.observed ++
          [.response .ok (if (x, y) ∈ blackSet ops then 1 else 0)] }

/-! ## ENCODE -/

/-- ENCODE.STD of a bitmap whose dimensions fit 16 bits and whose payload fits the device leaves in OUT the standard tag, the
mode byte, width in bytes and height as two little-endian bytes each, and the bitmap verbatim, answers the length, and
changes nothing but OUT (45_encoder.md R200, R205 to R207, R209, R210, 30_encoding.md R94). -/
def Obligations.EncodeStdWritesTheRasterCommand : Prop :=
  ∀ (s : State) (m : PrintMode),
    let wb := s.bmp.stride.toNat
    let h := s.bmp.h.toNat
    let L := s.params.tagStd.bytes.length + 5 + wb * h
    s.profile.gfx = true → s.bmp.valid = true → 0 < wb → wb ≤ 65535 → 0 < h → h ≤ 65535 →
    wb * h ≤ s.profile.maxBuf.toNat → Fits L s.params.outCap →
    ∃ t, exec (.encodeStd m) s = .next t ∧
      t = { s with out := t.out, observed := s.observed ++ [.response .ok (BitVec.ofNat 64 L)] } ∧
      t.out.valid = true ∧ t.out.len.toNat = L ∧
      t.contents .out = s.params.tagStd.bytes ++ [m.code] ++
        [BitVec.ofNat 8 (wb % 256), BitVec.ofNat 8 (wb / 256), BitVec.ofNat 8 (h % 256), BitVec.ofNat 8 (h / 256)] ++
        s.contents .bmp

/-- ENCODE.LARGE of a bitmap that is not empty and whose payload fits the device leaves in OUT the large tag, the mode byte,
width in bytes and height as four little-endian bytes each, and the bitmap verbatim, answers the length, and changes nothing
but OUT (45_encoder.md R200, R205 to R207, R209, R211, 30_encoding.md R94), for every value of `TAG_LARGE`. -/
def Obligations.EncodeLargeWritesTheRasterCommand : Prop :=
  ∀ (s : State) (m : PrintMode),
    let wb := s.bmp.stride.toNat
    let h := s.bmp.h.toNat
    let L := s.params.tagLarge.bytes.length + 9 + wb * h
    s.profile.gfx = true → s.bmp.valid = true → 0 < wb → 0 < h →
    wb * h ≤ s.profile.maxBuf.toNat → Fits L s.params.outCap →
    ∃ t, exec (.encodeLarge m) s = .next t ∧
      t = { s with out := t.out, observed := s.observed ++ [.response .ok (BitVec.ofNat 64 L)] } ∧
      t.out.valid = true ∧ t.out.len.toNat = L ∧
      t.contents .out = s.params.tagLarge.bytes ++ [m.code] ++
        [BitVec.ofNat 8 (wb % 256), BitVec.ofNat 8 (wb / 256 % 256), BitVec.ofNat 8 (wb / 65536 % 256),
          BitVec.ofNat 8 (wb / 16777216), BitVec.ofNat 8 (h % 256), BitVec.ofNat 8 (h / 256 % 256),
          BitVec.ofNat 8 (h / 65536 % 256), BitVec.ofNat 8 (h / 16777216)] ++
        s.contents .bmp

/-- A reader that knows the tag and the field width recovers from a RasterCommand its mode byte, its dimensions and its
payload (30_encoding.md R96). -/
def Obligations.RasterCommandIsReadBack : Prop :=
  ∀ (tag : Tag) (m : PrintMode) (F wb h : Nat) (payload : List Byte), wb < 256 ^ F → h < 256 ^ F →
    payload.length = wb * h →
    readRasterCommand tag F (rasterCommand tag m F wb h payload) = some ⟨m.code, wb, h, payload⟩ ∧
    (rasterCommand tag m F wb h payload).length = tag.bytes.length + 1 + 2 * F + wb * h

/-! ## Encoding -/

/-- Descriptors written out byte by byte in the spec's examples decode to their commands (30_encoding.md R80, R81, R83). -/
def Obligations.WrittenOutDescriptorsDecode : Prop :=
  decodeBytes [0x01, 0, 0, 0, 0x10, 0, 0, 0, 0x08, 0, 0, 0] = some (.srcDef .gray8 16 8) ∧
  decodeBytes [0x02, 0x32, 0, 0, 0, 0, 0, 0, 0, 0, 0, 0] = some (.rdcsr .bmpStride) ∧
  decodeBytes [0x11, 0x03, 0, 0, 0x80, 0x01, 0, 0, 0, 0, 0, 0] = some (.resampleA .gray 384) ∧
  decodeBytes [0x20, 0x07, 0x80, 0x01, 0, 0, 0, 0, 0, 0, 0, 0] = some (.ditherU 7 128 true) ∧
  decodeBytes [0x31, 0x01, 0, 0, 0x09, 0, 0, 0, 0x02, 0, 0, 0] = some (.setPixel 9 2 true) ∧
  decodeBytes [0x40, 0x01, 0x01, 0, 0, 0, 0, 0, 0, 0, 0, 0] = some (.encodeLarge .doubleWidth)

/-- A descriptor selects a row exactly when `d AND mask = match` on the 96-bit numbers, and decoding takes the first row
selected (30_encoding.md R83). -/
def Obligations.RowsAreSelectedByMaskAndMatch : Prop :=
  (∀ (r : Row) (d : Descriptor),
    r.selects (Fields.ofDescriptor d) = true ↔ d &&& r.mask.descriptor = r.pattern.descriptor) ∧
  ∀ (d : Descriptor) (before after : List Row) (r : Row), opcodeTable = before ++ r :: after →
    d &&& r.mask.descriptor = r.pattern.descriptor →
    (∀ q ∈ before, d &&& q.mask.descriptor ≠ q.pattern.descriptor) → decode d = r.build (Fields.ofDescriptor d)

/-- Decoding the descriptor of a well-formed command gives the command back, with every operand. -/
def Obligations.DecodeOfEncodeIsTheCommand : Prop :=
  ∀ i : Instr, i.wellFormed = true → decode (encode i) = .ok i

/-- A descriptor that decodes is the descriptor of the command it decodes to, which is well-formed: every command has one
descriptor. -/
def Obligations.EncodeOfDecodeIsTheDescriptor : Prop :=
  ∀ (d : Descriptor) (i : Instr), decode d = .ok i → encode i = d ∧ i.wellFormed = true
end

