-- ==== Sys2Proof/Laws/Codec.lean ====
section
/-! SUPPORT. The small lemmas of decoding and encoding: fields cut from a descriptor built of them, and each operand code
read back. -/

namespace Sys2Proof

/-- The fields of a descriptor built from fields. -/
theorem Fields.ofDescriptor_descriptor (f : Fields) : Fields.ofDescriptor f.descriptor = f := by
  obtain ⟨opc, a, b, c, p, q⟩ := f
  simp only [Fields.ofDescriptor, Fields.descriptor, Fields.mk.injEq]
  refine ⟨?_, ?_, ?_, ?_, ?_, ?_⟩ <;>
  · apply BitVec.eq_of_getLsbD_eq
    intro i hi
    simp only [BitVec.getLsbD_extractLsb', BitVec.getLsbD_append]
    grind

/-- The descriptor built from a descriptor's fields. -/
theorem Fields.descriptor_ofDescriptor (d : Descriptor) : (Fields.ofDescriptor d).descriptor = d := by
  apply BitVec.eq_of_getLsbD_eq
  intro i hi
  simp only [Fields.ofDescriptor, Fields.descriptor, BitVec.getLsbD_extractLsb', BitVec.getLsbD_append]
  grind

@[simp] theorem PixelFormat.ofBit_code (f : PixelFormat) : PixelFormat.ofBit (f.code.getLsbD 0) = f := by
  cases f <;> rfl

@[simp] theorem ImageBuffer.ofBit_code (b : ImageBuffer) : ImageBuffer.ofBit (b.code.getLsbD 1) = b := by
  cases b <;> rfl

@[simp] theorem ImageBuffer.ofBit_code_or (b : ImageBuffer) : ImageBuffer.ofBit ((b.code ||| 1).getLsbD 1) = b := by
  cases b <;> rfl

@[simp] theorem PrintMode.ofByte_code (m : PrintMode) : PrintMode.ofByte m.code = m := by
  cases m <;> rfl

@[simp] theorem flagByte_getLsbD (b : Bool) : (flagByte b).getLsbD 0 = b := by
  cases b <;> rfl

@[simp] theorem Csr.ofNumber_number (n : Csr) : Csr.ofNumber n.number = some n := by
  cases n <;> decide

/-- A CSR number names its register alone. -/
theorem Csr.number_of_ofNumber {b : Byte} {n : Csr} (h : Csr.ofNumber b = some n) : n.number = b := by
  simpa using List.find?_some h

end Sys2Proof
end

