-- ==== Sys2Proof/Laws/State.lean ====
section
/-! SUPPORT. One lemma per field per update of the state, true by rfl, so that no later proof unfolds a record update. -/

namespace Sys2Proof.Machine.State

variable (s : State)

@[simp] theorem observe_src (o : Observation) : (s.observe o).src = s.src := rfl
@[simp] theorem observe_gray (o : Observation) : (s.observe o).gray = s.gray := rfl
@[simp] theorem observe_bmp (o : Observation) : (s.observe o).bmp = s.bmp := rfl
@[simp] theorem observe_out (o : Observation) : (s.observe o).out = s.out := rfl
@[simp] theorem observe_acc (o : Observation) : (s.observe o).acc = s.acc := rfl
@[simp] theorem observe_fatal (o : Observation) : (s.observe o).fatal = s.fatal := rfl
@[simp] theorem observe_fatalCause (o : Observation) : (s.observe o).fatalCause = s.fatalCause := rfl
@[simp] theorem observe_profile (o : Observation) : (s.observe o).profile = s.profile := rfl
@[simp] theorem observe_params (o : Observation) : (s.observe o).params = s.params := rfl
@[simp] theorem observe_srcEpoch (o : Observation) : (s.observe o).srcEpoch = s.srcEpoch := rfl
@[simp] theorem observe_draws (o : Observation) : (s.observe o).draws = s.draws := rfl
@[simp] theorem observe_host (o : Observation) : (s.observe o).host = s.host := rfl
@[simp] theorem observe_observed (o : Observation) : (s.observe o).observed = s.observed ++ [o] := rfl

@[simp] theorem respond_src (d : DWord) : (s.respond d).src = s.src := rfl
@[simp] theorem respond_gray (d : DWord) : (s.respond d).gray = s.gray := rfl
@[simp] theorem respond_bmp (d : DWord) : (s.respond d).bmp = s.bmp := rfl
@[simp] theorem respond_out (d : DWord) : (s.respond d).out = s.out := rfl
@[simp] theorem respond_acc (d : DWord) : (s.respond d).acc = s.acc := rfl
@[simp] theorem respond_fatal (d : DWord) : (s.respond d).fatal = s.fatal := rfl
@[simp] theorem respond_fatalCause (d : DWord) : (s.respond d).fatalCause = s.fatalCause := rfl
@[simp] theorem respond_profile (d : DWord) : (s.respond d).profile = s.profile := rfl
@[simp] theorem respond_params (d : DWord) : (s.respond d).params = s.params := rfl
@[simp] theorem respond_srcEpoch (d : DWord) : (s.respond d).srcEpoch = s.srcEpoch := rfl
@[simp] theorem respond_draws (d : DWord) : (s.respond d).draws = s.draws := rfl
@[simp] theorem respond_host (d : DWord) : (s.respond d).host = s.host := rfl
@[simp] theorem respond_observed (d : DWord) : (s.respond d).observed = s.observed ++ [.response .ok d] := rfl

@[simp] theorem raise_src (e : Code) : (s.raise e).src = s.src := rfl
@[simp] theorem raise_gray (e : Code) : (s.raise e).gray = s.gray := rfl
@[simp] theorem raise_bmp (e : Code) : (s.raise e).bmp = s.bmp := rfl
@[simp] theorem raise_out (e : Code) : (s.raise e).out = s.out := rfl
@[simp] theorem raise_acc (e : Code) : (s.raise e).acc = s.acc := rfl
@[simp] theorem raise_fatal (e : Code) : (s.raise e).fatal = s.fatal := rfl
@[simp] theorem raise_fatalCause (e : Code) : (s.raise e).fatalCause = s.fatalCause := rfl
@[simp] theorem raise_profile (e : Code) : (s.raise e).profile = s.profile := rfl
@[simp] theorem raise_params (e : Code) : (s.raise e).params = s.params := rfl
@[simp] theorem raise_srcEpoch (e : Code) : (s.raise e).srcEpoch = s.srcEpoch := rfl
@[simp] theorem raise_draws (e : Code) : (s.raise e).draws = s.draws := rfl
@[simp] theorem raise_host (e : Code) : (s.raise e).host = s.host := rfl
@[simp] theorem raise_observed (e : Code) : (s.raise e).observed = s.observed ++ [.response e 0] := rfl

@[simp] theorem respondFree_src (b : Nat) : (s.respondFree b).src = s.src := rfl
@[simp] theorem respondFree_gray (b : Nat) : (s.respondFree b).gray = s.gray := rfl
@[simp] theorem respondFree_bmp (b : Nat) : (s.respondFree b).bmp = s.bmp := rfl
@[simp] theorem respondFree_out (b : Nat) : (s.respondFree b).out = s.out := rfl
@[simp] theorem respondFree_acc (b : Nat) : (s.respondFree b).acc = s.acc := rfl
@[simp] theorem respondFree_fatal (b : Nat) : (s.respondFree b).fatal = s.fatal := rfl
@[simp] theorem respondFree_fatalCause (b : Nat) : (s.respondFree b).fatalCause = s.fatalCause := rfl
@[simp] theorem respondFree_profile (b : Nat) : (s.respondFree b).profile = s.profile := rfl
@[simp] theorem respondFree_params (b : Nat) : (s.respondFree b).params = s.params := rfl
@[simp] theorem respondFree_srcEpoch (b : Nat) : (s.respondFree b).srcEpoch = s.srcEpoch := rfl
@[simp] theorem respondFree_draws (b : Nat) : (s.respondFree b).draws = s.draws + 1 := rfl
@[simp] theorem respondFree_host (b : Nat) : (s.respondFree b).host = s.host := rfl
@[simp] theorem respondFree_observed (b : Nat) : (s.respondFree b).observed = s.observed ++ [.response .ok (s.drawn b)] := rfl

@[simp] theorem haltWith_src (c : Byte) : (s.haltWith c).src = s.src := rfl
@[simp] theorem haltWith_gray (c : Byte) : (s.haltWith c).gray = s.gray := rfl
@[simp] theorem haltWith_bmp (c : Byte) : (s.haltWith c).bmp = s.bmp := rfl
@[simp] theorem haltWith_out (c : Byte) : (s.haltWith c).out = s.out := rfl
@[simp] theorem haltWith_acc (c : Byte) : (s.haltWith c).acc = s.acc := rfl
@[simp] theorem haltWith_fatal (c : Byte) : (s.haltWith c).fatal = true := rfl
@[simp] theorem haltWith_fatalCause (c : Byte) : (s.haltWith c).fatalCause = c := rfl
@[simp] theorem haltWith_profile (c : Byte) : (s.haltWith c).profile = s.profile := rfl
@[simp] theorem haltWith_params (c : Byte) : (s.haltWith c).params = s.params := rfl
@[simp] theorem haltWith_srcEpoch (c : Byte) : (s.haltWith c).srcEpoch = s.srcEpoch := rfl
@[simp] theorem haltWith_draws (c : Byte) : (s.haltWith c).draws = s.draws := rfl
@[simp] theorem haltWith_host (c : Byte) : (s.haltWith c).host = s.host := rfl
@[simp] theorem haltWith_observed (c : Byte) : (s.haltWith c).observed = s.observed := rfl

@[simp] theorem afterTaking_src (r : List HostAction) : (s.afterTaking r).src = s.src := rfl
@[simp] theorem afterTaking_gray (r : List HostAction) : (s.afterTaking r).gray = s.gray := rfl
@[simp] theorem afterTaking_bmp (r : List HostAction) : (s.afterTaking r).bmp = s.bmp := rfl
@[simp] theorem afterTaking_out (r : List HostAction) : (s.afterTaking r).out = s.out := rfl
@[simp] theorem afterTaking_acc (r : List HostAction) : (s.afterTaking r).acc = s.acc := rfl
@[simp] theorem afterTaking_fatal (r : List HostAction) : (s.afterTaking r).fatal = s.fatal := rfl
@[simp] theorem afterTaking_fatalCause (r : List HostAction) : (s.afterTaking r).fatalCause = s.fatalCause := rfl
@[simp] theorem afterTaking_profile (r : List HostAction) : (s.afterTaking r).profile = s.profile := rfl
@[simp] theorem afterTaking_params (r : List HostAction) : (s.afterTaking r).params = s.params := rfl
@[simp] theorem afterTaking_srcEpoch (r : List HostAction) : (s.afterTaking r).srcEpoch = s.srcEpoch := rfl
@[simp] theorem afterTaking_draws (r : List HostAction) : (s.afterTaking r).draws = s.draws := rfl
@[simp] theorem afterTaking_host (r : List HostAction) : (s.afterTaking r).host = r := rfl
@[simp] theorem afterTaking_observed (r : List HostAction) : (s.afterTaking r).observed = s.observed := rfl

@[simp] theorem present_src (d : Descriptor) : (s.present d).src = s.src := rfl
@[simp] theorem present_gray (d : Descriptor) : (s.present d).gray = s.gray := rfl
@[simp] theorem present_bmp (d : Descriptor) : (s.present d).bmp = s.bmp := rfl
@[simp] theorem present_out (d : Descriptor) : (s.present d).out = s.out := rfl
@[simp] theorem present_acc (d : Descriptor) : (s.present d).acc = s.acc := rfl
@[simp] theorem present_fatal (d : Descriptor) : (s.present d).fatal = s.fatal := rfl
@[simp] theorem present_fatalCause (d : Descriptor) : (s.present d).fatalCause = s.fatalCause := rfl
@[simp] theorem present_profile (d : Descriptor) : (s.present d).profile = s.profile := rfl
@[simp] theorem present_params (d : Descriptor) : (s.present d).params = s.params := rfl
@[simp] theorem present_srcEpoch (d : Descriptor) : (s.present d).srcEpoch = s.srcEpoch := rfl
@[simp] theorem present_draws (d : Descriptor) : (s.present d).draws = s.draws := rfl
@[simp] theorem present_host (d : Descriptor) : (s.present d).host = .command d :: s.host := rfl
@[simp] theorem present_observed (d : Descriptor) : (s.present d).observed = s.observed := rfl

@[simp] theorem defineSource_src (fmt : PixelFormat) (w h : Word) : (s.defineSource fmt w h).src = ⟨w, h, fmt, true, []⟩ := rfl
@[simp] theorem defineSource_gray (fmt : PixelFormat) (w h : Word) : (s.defineSource fmt w h).gray = s.gray := rfl
@[simp] theorem defineSource_bmp (fmt : PixelFormat) (w h : Word) : (s.defineSource fmt w h).bmp = s.bmp := rfl
@[simp] theorem defineSource_out (fmt : PixelFormat) (w h : Word) : (s.defineSource fmt w h).out = s.out := rfl
@[simp] theorem defineSource_acc (fmt : PixelFormat) (w h : Word) : (s.defineSource fmt w h).acc = s.acc := rfl
@[simp] theorem defineSource_fatal (fmt : PixelFormat) (w h : Word) : (s.defineSource fmt w h).fatal = s.fatal := rfl
@[simp] theorem defineSource_fatalCause (fmt : PixelFormat) (w h : Word) : (s.defineSource fmt w h).fatalCause = s.fatalCause := rfl
@[simp] theorem defineSource_profile (fmt : PixelFormat) (w h : Word) : (s.defineSource fmt w h).profile = s.profile := rfl
@[simp] theorem defineSource_params (fmt : PixelFormat) (w h : Word) : (s.defineSource fmt w h).params = s.params := rfl
@[simp] theorem defineSource_srcEpoch (fmt : PixelFormat) (w h : Word) : (s.defineSource fmt w h).srcEpoch = s.srcEpoch + 1 := rfl
@[simp] theorem defineSource_draws (fmt : PixelFormat) (w h : Word) : (s.defineSource fmt w h).draws = s.draws := rfl
@[simp] theorem defineSource_host (fmt : PixelFormat) (w h : Word) : (s.defineSource fmt w h).host = s.host := rfl
@[simp] theorem defineSource_observed (fmt : PixelFormat) (w h : Word) : (s.defineSource fmt w h).observed = s.observed := rfl

@[simp] theorem replaceImage_src_src (w h : Nat) (l : List Byte) :
    (s.replaceImage w h l .src).src = ⟨BitVec.ofNat 32 w, BitVec.ofNat 32 h, s.src.fmt, true, Memory.ofBytes Buffer.src.unlisted 0 l⟩ := rfl
@[simp] theorem replaceImage_src_gray (w h : Nat) (l : List Byte) :
    (s.replaceImage w h l .src).gray = s.gray := rfl
@[simp] theorem replaceImage_src_bmp (w h : Nat) (l : List Byte) :
    (s.replaceImage w h l .src).bmp = s.bmp := rfl
@[simp] theorem replaceImage_src_out (w h : Nat) (l : List Byte) :
    (s.replaceImage w h l .src).out = s.out := rfl
@[simp] theorem replaceImage_src_acc (w h : Nat) (l : List Byte) :
    (s.replaceImage w h l .src).acc = s.acc := rfl
@[simp] theorem replaceImage_src_fatal (w h : Nat) (l : List Byte) :
    (s.replaceImage w h l .src).fatal = s.fatal := rfl
@[simp] theorem replaceImage_src_fatalCause (w h : Nat) (l : List Byte) :
    (s.replaceImage w h l .src).fatalCause = s.fatalCause := rfl
@[simp] theorem replaceImage_src_profile (w h : Nat) (l : List Byte) :
    (s.replaceImage w h l .src).profile = s.profile := rfl
@[simp] theorem replaceImage_src_params (w h : Nat) (l : List Byte) :
    (s.replaceImage w h l .src).params = s.params := rfl
@[simp] theorem replaceImage_src_srcEpoch (w h : Nat) (l : List Byte) :
    (s.replaceImage w h l .src).srcEpoch = s.srcEpoch := rfl
@[simp] theorem replaceImage_src_draws (w h : Nat) (l : List Byte) :
    (s.replaceImage w h l .src).draws = s.draws := rfl
@[simp] theorem replaceImage_src_host (w h : Nat) (l : List Byte) :
    (s.replaceImage w h l .src).host = s.host := rfl
@[simp] theorem replaceImage_src_observed (w h : Nat) (l : List Byte) :
    (s.replaceImage w h l .src).observed = s.observed := rfl

@[simp] theorem replaceImage_gray_src (w h : Nat) (l : List Byte) :
    (s.replaceImage w h l .gray).src = s.src := rfl
@[simp] theorem replaceImage_gray_gray (w h : Nat) (l : List Byte) :
    (s.replaceImage w h l .gray).gray = ⟨BitVec.ofNat 32 w, BitVec.ofNat 32 h, true, Memory.ofBytes Buffer.gray.unlisted 0 l⟩ := rfl
@[simp] theorem replaceImage_gray_bmp (w h : Nat) (l : List Byte) :
    (s.replaceImage w h l .gray).bmp = s.bmp := rfl
@[simp] theorem replaceImage_gray_out (w h : Nat) (l : List Byte) :
    (s.replaceImage w h l .gray).out = s.out := rfl
@[simp] theorem replaceImage_gray_acc (w h : Nat) (l : List Byte) :
    (s.replaceImage w h l .gray).acc = s.acc := rfl
@[simp] theorem replaceImage_gray_fatal (w h : Nat) (l : List Byte) :
    (s.replaceImage w h l .gray).fatal = s.fatal := rfl
@[simp] theorem replaceImage_gray_fatalCause (w h : Nat) (l : List Byte) :
    (s.replaceImage w h l .gray).fatalCause = s.fatalCause := rfl
@[simp] theorem replaceImage_gray_profile (w h : Nat) (l : List Byte) :
    (s.replaceImage w h l .gray).profile = s.profile := rfl
@[simp] theorem replaceImage_gray_params (w h : Nat) (l : List Byte) :
    (s.replaceImage w h l .gray).params = s.params := rfl
@[simp] theorem replaceImage_gray_srcEpoch (w h : Nat) (l : List Byte) :
    (s.replaceImage w h l .gray).srcEpoch = s.srcEpoch := rfl
@[simp] theorem replaceImage_gray_draws (w h : Nat) (l : List Byte) :
    (s.replaceImage w h l .gray).draws = s.draws := rfl
@[simp] theorem replaceImage_gray_host (w h : Nat) (l : List Byte) :
    (s.replaceImage w h l .gray).host = s.host := rfl
@[simp] theorem replaceImage_gray_observed (w h : Nat) (l : List Byte) :
    (s.replaceImage w h l .gray).observed = s.observed := rfl

/-- A number that fits the response is the response's data. -/
theorem respondNat_of_lt {n : Nat} (h : n < 2 ^ 64) : s.respondNat n = s.respond (BitVec.ofNat 64 n) := if_pos h

/-- A number that does not fit leaves the data free. -/
theorem respondNat_of_le {n : Nat} (h : 2 ^ 64 ≤ n) : s.respondNat n = s.respondFree 64 := if_neg (Nat.not_lt.mpr h)

@[simp] theorem respondNat_src (n : Nat) : (s.respondNat n).src = s.src := by
  unfold respondNat; split <;> rfl
@[simp] theorem respondNat_gray (n : Nat) : (s.respondNat n).gray = s.gray := by
  unfold respondNat; split <;> rfl
@[simp] theorem respondNat_bmp (n : Nat) : (s.respondNat n).bmp = s.bmp := by
  unfold respondNat; split <;> rfl
@[simp] theorem respondNat_out (n : Nat) : (s.respondNat n).out = s.out := by
  unfold respondNat; split <;> rfl
@[simp] theorem respondNat_acc (n : Nat) : (s.respondNat n).acc = s.acc := by
  unfold respondNat; split <;> rfl
@[simp] theorem respondNat_fatal (n : Nat) : (s.respondNat n).fatal = s.fatal := by
  unfold respondNat; split <;> rfl
@[simp] theorem respondNat_fatalCause (n : Nat) : (s.respondNat n).fatalCause = s.fatalCause := by
  unfold respondNat; split <;> rfl
@[simp] theorem respondNat_profile (n : Nat) : (s.respondNat n).profile = s.profile := by
  unfold respondNat; split <;> rfl
@[simp] theorem respondNat_params (n : Nat) : (s.respondNat n).params = s.params := by
  unfold respondNat; split <;> rfl
@[simp] theorem respondNat_srcEpoch (n : Nat) : (s.respondNat n).srcEpoch = s.srcEpoch := by
  unfold respondNat; split <;> rfl
@[simp] theorem respondNat_host (n : Nat) : (s.respondNat n).host = s.host := by
  unfold respondNat; split <;> rfl

/-- Ending a command with `OK` appends one response of code `OK`. -/
theorem respondNat_observed (n : Nat) : ∃ d, (s.respondNat n).observed = s.observed ++ [.response .ok d] := by
  unfold respondNat; split <;> exact ⟨_, rfl⟩

/-- A command's two dimensions fit the response (30_encoding.md R92). -/
theorem dims_lt (w h : Word) : dims w.toNat h.toNat < 2 ^ 64 := by
  have := w.isLt
  have := h.isLt
  unfold dims
  omega

end Sys2Proof.Machine.State
end

