-- ==== Sys2Proof/Laws/Memory.lean ====
section
/-! SUPPORT. The laws of byte memories: read after write, the canonical form kept by every operation, whole buffers built and
read back. -/

namespace Sys2Proof.Machine.Memory

variable {u : Option Byte} {d : Nat → Byte} {m : Memory} {a b n : Nat} {v : Byte}

@[simp] theorem lookup_nil : lookup [] a = none := rfl

@[simp] theorem lookup_cons {k : Nat} {w : Byte} : lookup ((k, w) :: m) a = if k = a then some w else lookup m a := rfl

/-! Read after write. -/

theorem lookup_insert : lookup (insert m a v) b = if a = b then some v else lookup m b := by
  induction m with
  | nil => simp [insert]
  | cons c m ih =>
    obtain ⟨k, w⟩ := c
    simp only [insert]
    split
    · simp
    · split
      · subst a
        by_cases h : k = b <;> simp [h]
      · by_cases h : k = b
        · have : a ≠ b := fun e => by omega
          simp [h, this]
        · simp [h, ih]

theorem lookup_erase : lookup (erase m a) b = if a = b then none else lookup m b := by
  induction m with
  | nil => simp [erase]
  | cons c m ih =>
    obtain ⟨k, w⟩ := c
    simp only [erase, List.filter_cons] at ih ⊢
    by_cases hk : k = a
    · subst k
      by_cases h : a = b <;> simp_all
    · by_cases h : k = b
      · have : a ≠ b := fun e => hk (h.trans e.symm)
        subst h
        simp [hk, this]
      · simpa [hk, h] using ih

/-- A byte of a memory as an optional value: what is listed, or what the unlisted offsets hold. -/
theorem lookup_write_of_ne (h : a ≠ b) : lookup (write u m a v) b = lookup m b := by
  unfold write; split <;> simp [lookup_erase, lookup_insert, h]

theorem lookup_write_self : (lookup (write u m a v) a).or u = some v := by
  unfold write; split <;> simp_all [lookup_erase, lookup_insert]

/-- Writing leaves every other offset's byte alone. -/
theorem read_write_of_ne (h : a ≠ b) : read d (write u m a v) b = read d m b := by
  simp [read, lookup_write_of_ne h]

/-- A byte written to GRAY, BMP or OUT is read back. -/
theorem read_write_zero : read zeroByte (write (some 0) m a v) a = v := by
  unfold write read
  split
  · simp_all [lookup_erase, zeroByte]
  · simp [lookup_insert]

/-- A byte written to SRC is listed, whatever the draw was. -/
theorem read_write_none : read d (write none m a v) a = v := by
  simp [write, read, lookup_insert]

/-! The canonical form. -/

/-- Every offset of `m` is at least `a`. -/
def above (a : Nat) (m : Memory) : Prop := ∀ c ∈ m, a ≤ c.1

theorem rising_cons {k : Nat} {w : Byte} : rising ((k, w) :: m) = true ↔ above (k + 1) m ∧ rising m = true := by
  induction m generalizing k w with
  | nil => simp [rising, above]
  | cons c m ih =>
    obtain ⟨j, x⟩ := c
    simp only [rising, Bool.and_eq_true, decide_eq_true_eq]
    constructor
    · rintro ⟨h, hr⟩
      refine ⟨fun c hc => ?_, hr⟩
      rcases List.mem_cons.mp hc with rfl | hc
      · exact h
      · have := (ih.mp hr).1 c hc
        omega
    · rintro ⟨h, hr⟩
      exact ⟨h (j, x) (by simp), hr⟩

theorem mem_insert {c : Host.Cell} (h : c ∈ insert m a v) : c = (a, v) ∨ c ∈ m := by
  induction m with
  | nil => simpa [insert] using h
  | cons e m ih =>
    obtain ⟨k, w⟩ := e
    simp only [insert] at h
    split at h
    · simpa using h
    · split at h
      · rcases List.mem_cons.mp h with h | h
        · exact .inl h
        · exact .inr (List.mem_cons_of_mem _ h)
      · rcases List.mem_cons.mp h with h | h
        · exact .inr (by simp [h])
        · rcases ih h with h | h
          · exact .inl h
          · exact .inr (List.mem_cons_of_mem _ h)

theorem rising_insert (h : rising m = true) : rising (insert m a v) = true := by
  induction m with
  | nil => rfl
  | cons e m ih =>
    obtain ⟨k, w⟩ := e
    obtain ⟨ha, hr⟩ := rising_cons.mp h
    simp only [insert]
    split
    · refine rising_cons.mpr ⟨fun c hc => ?_, h⟩
      rcases List.mem_cons.mp hc with rfl | hc
      · assumption
      · have := ha c hc
        omega
    · split
      · subst a
        exact rising_cons.mpr ⟨ha, hr⟩
      · refine rising_cons.mpr ⟨fun c hc => ?_, ih hr⟩
        rcases mem_insert hc with rfl | hc
        · show k + 1 ≤ a
          omega
        · exact ha c hc

theorem rising_filter (p : Host.Cell → Bool) (h : rising m = true) : rising (m.filter p) = true := by
  induction m with
  | nil => rfl
  | cons e m ih =>
    obtain ⟨k, w⟩ := e
    obtain ⟨ha, hr⟩ := rising_cons.mp h
    simp only [List.filter_cons]
    split
    · exact rising_cons.mpr ⟨fun c hc => ha c (List.mem_filter.mp hc).1, ih hr⟩
    · exact ih hr

theorem wf_iff : wf u m = true ↔ rising m = true ∧ ∀ c ∈ m, u ≠ some c.2 := by
  simp [wf]

@[simp] theorem wf_nil : wf u [] = true := rfl

/-- A write keeps the canonical form. -/
theorem wf_write (h : wf u m = true) : wf u (write u m a v) = true := by
  obtain ⟨hr, hu⟩ := wf_iff.mp h
  unfold write
  split
  · exact wf_iff.mpr ⟨rising_filter _ hr, fun c hc => hu c (List.mem_filter.mp hc).1⟩
  · refine wf_iff.mpr ⟨rising_insert hr, fun c hc => ?_⟩
    rcases mem_insert hc with rfl | hc
    · assumption
    · exact hu c hc

/-- Writing several bytes keeps the canonical form. -/
theorem wf_writeBytes {vs : List Byte} (h : wf u m = true) : wf u (writeBytes u m a vs) = true := by
  induction vs generalizing m a with
  | nil => exact h
  | cons v vs ih => exact ih (wf_write h)

theorem above_ofBytes {vs : List Byte} : above a (ofBytes u a vs) := by
  induction vs generalizing a with
  | nil => simp [ofBytes, above]
  | cons v vs ih =>
    intro c hc
    simp only [ofBytes] at hc
    split at hc
    · have := ih c hc
      omega
    · rcases List.mem_cons.mp hc with rfl | hc
      · exact Nat.le_refl _
      · have := ih c hc
        omega

/-- A whole buffer is built in canonical form. -/
theorem wf_ofBytes {vs : List Byte} : wf u (ofBytes u a vs) = true := by
  induction vs generalizing a with
  | nil => rfl
  | cons v vs ih =>
    simp only [ofBytes]
    split
    · exact ih
    · obtain ⟨hr, hu⟩ := wf_iff.mp (ih (a := a + 1))
      refine wf_iff.mpr ⟨rising_cons.mpr ⟨above_ofBytes, hr⟩, fun c hc => ?_⟩
      rcases List.mem_cons.mp hc with rfl | hc
      · assumption
      · exact hu c hc

/-- The pixel-set primitive keeps the canonical form. -/
theorem wf_setPixel {stride x y : Nat} {black : Bool} (h : wf Buffer.bmp.unlisted m = true) :
    wf Buffer.bmp.unlisted (setPixel m stride x y black) = true := wf_write h

/-! Sizes. -/

theorem within_iff : within n m = true ↔ ∀ c ∈ m, c.1 < n := by simp [within]

theorem within_write (h : within n m = true) (ha : a < n) : within n (write u m a v) = true := by
  rw [within_iff] at h ⊢
  intro c hc
  unfold write at hc
  split at hc
  · exact h c (List.mem_filter.mp hc).1
  · rcases mem_insert hc with rfl | hc
    · exact ha
    · exact h c hc

theorem within_writeBytes {vs : List Byte} (h : within n m = true) (ha : a + vs.length ≤ n) :
    within n (writeBytes u m a vs) = true := by
  induction vs generalizing m a with
  | nil => exact h
  | cons v vs ih =>
    simp only [List.length_cons] at ha
    exact ih (within_write h (by omega)) (by omega)

theorem within_ofBytes {vs : List Byte} (h : a + vs.length ≤ n) : within n (ofBytes u a vs) = true := by
  induction vs generalizing a with
  | nil => rfl
  | cons v vs ih =>
    simp only [List.length_cons] at h
    have hi := within_iff.mp (ih (a := a + 1) (by omega))
    rw [within_iff]
    intro c hc
    simp only [ofBytes] at hc
    split at hc
    · exact hi c hc
    · rcases List.mem_cons.mp hc with rfl | hc
      · show a < n
        omega
      · exact hi c hc

/-! Whole buffers read back. -/

theorem lookup_of_above (h : above (b + 1) m) : lookup m b = none := by
  induction m with
  | nil => rfl
  | cons c m ih =>
    obtain ⟨k, w⟩ := c
    have hk : b + 1 ≤ k := h (k, w) (by simp)
    have : k ≠ b := by omega
    simp [this, ih fun c hc => h c (List.mem_cons_of_mem _ hc)]

/-- What a buffer built from bytes lists at an offset. -/
theorem lookup_ofBytes {vs : List Byte} {i : Nat} :
    (lookup (ofBytes u a vs) (a + i)).or u = (vs[i]?).or u := by
  induction vs generalizing a i with
  | nil => simp [ofBytes]
  | cons v vs ih =>
    cases i with
    | zero =>
      simp only [ofBytes]
      split
      · have : lookup (ofBytes u (a + 1) vs) (a + 0) = none := lookup_of_above above_ofBytes
        simp_all
      · simp
    | succ i =>
      have := ih (a := a + 1) (i := i)
      rw [show a + (i + 1) = a + 1 + i by omega]
      simp only [ofBytes]
      split
      · simpa using this
      · simpa [show a ≠ a + 1 + i by omega] using this

/-- A whole GRAY, BMP or OUT reads back as the bytes it was built from. -/
theorem read_ofBytes_zero {vs : List Byte} {i : Nat} :
    read zeroByte (ofBytes (some 0) 0 vs) i = vs.getD i 0 := by
  have h := lookup_ofBytes (u := some 0) (a := 0) (vs := vs) (i := i)
  rw [Nat.zero_add] at h
  unfold read zeroByte
  rw [List.getD_eq_getElem?_getD]
  generalize lookup (ofBytes (some 0) 0 vs) i = x at h ⊢
  generalize vs[i]? = y at h ⊢
  cases x <;> cases y <;> simp_all

/-- A whole SRC reads back as the samples it was built from. -/
theorem read_ofBytes_none {vs : List Byte} {i : Nat} (hi : i < vs.length) :
    read d (ofBytes none 0 vs) i = vs.getD i 0 := by
  have h := lookup_ofBytes (u := none) (a := 0) (vs := vs) (i := i)
  simp only [Nat.zero_add, Option.or_none] at h
  simp [read, h, hi]

theorem window_length : (window d m a n).length = n := by
  induction n generalizing m a with
  | zero => cases m <;> rfl
  | succ n ih =>
    match m with
    | [] => simp [window, ih]
    | (k, v) :: m =>
      simp only [window]
      split <;> simp [ih]

theorem window_getElem? (hr : rising m = true) (ha : above a m) {i : Nat} (hi : i < n) :
    (window d m a n)[i]? = some (read d m (a + i)) := by
  induction n generalizing m a i with
  | zero => omega
  | succ n ih =>
    match m with
    | [] =>
      cases i with
      | zero => simp [window, read]
      | succ i =>
        have := ih (m := []) (a := a + 1) (i := i) rfl (fun c hc => nomatch hc) (by omega)
        simpa [window, show a + 1 + i = a + (i + 1) by omega] using this
    | (k, w) :: m =>
      obtain ⟨hk, hr'⟩ := rising_cons.mp hr
      have hak : a ≤ k := ha (k, w) (by simp)
      simp only [window]
      split
      · subst k
        cases i with
        | zero => simp [read]
        | succ i =>
          have := ih (a := a + 1) (i := i) hr' hk (by omega)
          rw [show a + 1 + i = a + (i + 1) by omega] at this
          simpa [read] using this
      · cases i with
        | zero =>
          have hn : lookup m a = none := lookup_of_above fun c hc => by have := hk c hc; omega
          simp [read, *]
        | succ i =>
          have hab : above (a + 1) ((k, w) :: m) := by
            intro c hc
            rcases List.mem_cons.mp hc with rfl | hc
            · show a + 1 ≤ k
              omega
            · have := hk c hc
              omega
          have := ih (a := a + 1) (i := i) hr hab (by omega)
          simpa [show a + 1 + i = a + (i + 1) by omega] using this

theorem lookup_filter_ge (h : a ≤ b) : lookup (m.filter fun c => a ≤ c.1) b = lookup m b := by
  induction m with
  | nil => rfl
  | cons c m ih =>
    obtain ⟨k, w⟩ := c
    simp only [List.filter_cons]
    split
    · simp [ih]
    · rename_i hk
      have : k ≠ b := by
        simp only [decide_eq_true_eq] at hk
        omega
      simp [ih, this]

@[simp] theorem readBytes_length : (readBytes d m a n).length = n := window_length

/-- `MemRead` of `n` bytes gives the byte at each offset (00_scope.md R17). -/
theorem readBytes_getElem? (hr : rising m = true) {i : Nat} (hi : i < n) :
    (readBytes d m a n)[i]? = some (read d m (a + i)) := by
  unfold readBytes
  have hab : above a (m.filter fun c => a ≤ c.1) := fun c hc => by
    simpa using (List.mem_filter.mp hc).2
  rw [window_getElem? (rising_filter _ hr) hab hi]
  simp [read, lookup_filter_ge (Nat.le_add_right a i)]

/-! Equal memories are equal data. -/

/-- Two memories in canonical form that hold the same bytes are the same list. -/
theorem eq_of_lookup {m m' : Memory} (h : rising m = true) (h' : rising m' = true)
    (e : ∀ a, lookup m a = lookup m' a) : m = m' := by
  induction m generalizing m' with
  | nil =>
    match m' with
    | [] => rfl
    | (k, w) :: m' => simpa using e k
  | cons c m ih =>
    obtain ⟨k, w⟩ := c
    obtain ⟨hk, hr⟩ := rising_cons.mp h
    match m' with
    | [] => simpa using e k
    | (k', w') :: m' =>
      obtain ⟨hk', hr'⟩ := rising_cons.mp h'
      have hkk : k = k' := by
        rcases Nat.lt_trichotomy k k' with hlt | heq | hgt
        · have := e k
          rw [lookup_of_above (m := (k', w') :: m')] at this
          · simp at this
          · intro c hc
            rcases List.mem_cons.mp hc with rfl | hc
            · exact hlt
            · have := hk' c hc
              omega
        · exact heq
        · have := e k'
          rw [lookup_of_above (m := (k, w) :: m)] at this
          · simp at this
          · intro c hc
            rcases List.mem_cons.mp hc with rfl | hc
            · exact hgt
            · have := hk c hc
              omega
      subst k'
      have hw : w = w' := by simpa using e k
      subst w'
      rw [ih hr hr' fun a => ?_]
      have := e a
      by_cases ha : k = a
      · subst a
        rw [lookup_of_above hk, lookup_of_above hk']
      · simpa [ha] using this

end Sys2Proof.Machine.Memory
end

