-- ==== Sys2Proof/Laws/Pixel.lean ====
section
/-! SUPPORT. The laws of the pixel-set primitive (44_bitmap.md R184): one bit changes, and every other pixel of the layout of
20_memory.md R53 keeps its value. -/

namespace Sys2Proof.Machine

theorem pixelBit_lt (x : Nat) : pixelBit x < 8 := by unfold pixelBit; omega

/-- Distinct pixels of the bit grid `8 * stride` wide are distinct bits. -/
theorem pixel_ext {stride x y x' y' : Nat} (hx : x < 8 * stride) (hx' : x' < 8 * stride)
    (ho : pixelOffset stride x y = pixelOffset stride x' y') (hb : pixelBit x = pixelBit x') : x = x' ∧ y = y' := by
  unfold pixelOffset at ho
  unfold pixelBit at hb
  have h1 : x / 8 < stride := by omega
  have h2 : x' / 8 < stride := by omega
  have hy : y = y' := by
    rcases Nat.lt_trichotomy y y' with h | h | h
    · have := Nat.mul_le_mul_right stride (show y + 1 ≤ y' from h)
      rw [Nat.add_mul] at this
      omega
    · exact h
    · have := Nat.mul_le_mul_right stride (show y' + 1 ≤ y from h)
      rw [Nat.add_mul] at this
      omega
  subst hy
  exact ⟨by omega, rfl⟩

/-- The byte of a pixel inside the bitmap is inside the contents. -/
theorem pixelOffset_lt {stride h x y : Nat} (hx : x < 8 * stride) (hy : y < h) : pixelOffset stride x y < stride * h := by
  have : (y + 1) * stride ≤ h * stride := Nat.mul_le_mul_right stride hy
  rw [Nat.add_mul, Nat.mul_comm h] at this
  unfold pixelOffset
  omega

/-- `setBit` gives one bit the decision and leaves the other seven. -/
theorem setBit_getLsbD (v : Byte) (x k : Nat) (black : Bool) (hk : k < 8) :
    (setBit v x black).getLsbD k = if k = pixelBit x then black else v.getLsbD k := by
  have hb := pixelBit_lt x
  unfold setBit
  generalize pixelBit x = j at hb ⊢
  by_cases h : k = j
  · subst h
    cases black <;> simp [hk]
  · cases black <;> simp [hk, h] <;> omega

namespace Memory

variable {m : Memory} {stride x y x' y' a : Nat} {black : Bool}

/-- The byte of the pixel after the write. -/
theorem read_setPixel_self : read zeroByte (setPixel m stride x y black) (pixelOffset stride x y) =
    setBit (read zeroByte m (pixelOffset stride x y)) x black := read_write_zero

/-- Every other byte is left alone. -/
theorem read_setPixel_of_ne (h : pixelOffset stride x y ≠ a) :
    read zeroByte (setPixel m stride x y black) a = read zeroByte m a := read_write_of_ne h

/-- The pixel written is read back. -/
theorem getPixel_setPixel_self : getPixel (setPixel m stride x y black) stride x y = black := by
  simp [getPixel, read_setPixel_self, setBit_getLsbD _ _ _ _ (pixelBit_lt x)]

/-- Every other pixel of the bit grid is left alone. -/
theorem getPixel_setPixel_of_ne (hx : x < 8 * stride) (hx' : x' < 8 * stride) (h : ¬(x = x' ∧ y = y')) :
    getPixel (setPixel m stride x y black) stride x' y' = getPixel m stride x' y' := by
  by_cases ho : pixelOffset stride x y = pixelOffset stride x' y'
  · have hb : pixelBit x' ≠ pixelBit x := fun hb => h (pixel_ext hx hx' ho hb.symm)
    simp only [getPixel, ← ho, read_setPixel_self, setBit_getLsbD _ _ _ _ (pixelBit_lt x'), hb, if_false]
  · simp [getPixel, read_setPixel_of_ne ho]

/-- A pixel inside the bitmap keeps the contents inside their size. -/
theorem within_setPixel {h : Nat} (hm : within (stride * h) m = true) (hx : x < 8 * stride) (hy : y < h) :
    within (stride * h) (setPixel m stride x y black) = true := within_write hm (pixelOffset_lt hx hy)

end Memory

/-- Every pixel of a bitmap `w` wide lies in its rows' bytes. -/
theorem lt_strideOf {x w : Nat} (h : x < w) : x < 8 * strideOf w := by unfold strideOf; omega

/-- The stride of a 32-bit width fits its register (45_encoder.md R214). -/
theorem strideOf_le (w : Word) : strideOf w.toNat ≤ 536870912 := by
  have := w.isLt
  unfold strideOf
  omega

@[simp] theorem strideOf_toNat (w : Word) : (BitVec.ofNat 32 (strideOf w.toNat)).toNat = strideOf w.toNat := by
  have := strideOf_le w
  rw [BitVec.toNat_ofNat]
  omega

/-- `strideOf` is 0 exactly for width 0 (45_encoder.md R203). -/
theorem strideOf_eq_zero {w : Nat} : strideOf w = 0 ↔ w = 0 := by unfold strideOf; omega

end Sys2Proof.Machine
end

