-- ==== Sys2Proof/Laws/Outcome.lean ====
section
/-! SUPPORT. For each shared operation of the commands, once, everything it can answer: the inversion lemmas the proofs cite
instead of unfolding the operations. -/

namespace Sys2Proof.Machine

variable {s t : State}

theorem exceeds_eq_true {n : Nat} {cap : Option Nat} : exceeds n cap = true ↔ ∃ c, cap = some c ∧ c < n := by
  cases cap <;> simp [exceeds]

theorem exceeds_eq_false {n : Nat} {cap : Option Nat} : exceeds n cap = false ↔ ∀ c, cap = some c → n ≤ c := by
  cases cap <;> simp [exceeds]

theorem isEmpty_eq_true {w h : Word} : isEmpty w h = true ↔ w = 0 ∨ h = 0 := by simp [isEmpty]

theorem srcUnusable_eq_true : s.srcUnusable = true ↔ s.src.valid = false ∨ s.src.w = 0 ∨ s.src.h = 0 := by
  simp [State.srcUnusable, State.isNil, State.validBit, isEmpty]

theorem grayUnusable_eq_true : s.grayUnusable = true ↔ s.gray.valid = false ∨ s.gray.w = 0 ∨ s.gray.h = 0 := by
  simp [State.grayUnusable, State.isNil, State.validBit, isEmpty]

theorem isNil_bmp : s.isNil .bmp = !s.bmp.valid := rfl

theorem pixelOutside_eq_true {x y : Word} :
    s.pixelOutside x y = true ↔ s.bmp.w.toNat ≤ x.toNat ∨ s.bmp.h.toNat ≤ y.toNat := by
  simp [State.pixelOutside]

/-- What SRC_DEF answers. -/
theorem execSrcDef_cases (fmt : PixelFormat) (w h : Word) (s : State) :
    (exceeds (w.toNat * h.toNat * channels fmt) s.params.srcCap = true ∧
      execSrcDef fmt w h s = .next (s.raise .capacityExceeded)) ∨
    (exceeds (w.toNat * h.toNat * channels fmt) s.params.srcCap = false ∧
      execSrcDef fmt w h s = .next ((s.defineSource fmt w h).respondNat (w.toNat * h.toNat * channels fmt))) := by
  unfold execSrcDef
  cases hc : exceeds (w.toNat * h.toNat * channels fmt) s.params.srcCap <;> simp [hc]

/-- What RDCSR answers. -/
theorem execRdcsr_cases (n : Csr) (s : State) :
    (∃ v, s.csr n = some v ∧ execRdcsr n s = .next (s.respond v)) ∨
    (s.csr n = none ∧ execRdcsr n s = .next (s.respondFree (csrBits n))) := by
  unfold execRdcsr
  cases s.csr n <;> simp

/-- The state GRAY leaves when it succeeds. -/
def State.normalized (s : State) : State :=
  { s with gray := ⟨s.src.w, s.src.h, true, Memory.ofBytes Buffer.gray.unlisted 0
      (graySamples s.src.fmt (s.contents .src) (s.src.w.toNat * s.src.h.toNat))⟩ }

/-- What GRAY answers. -/
theorem execGray_cases (s : State) :
    (s.srcUnusable = true ∧ execGray s = .next (s.raise .invalidInput)) ∨
    (s.srcUnusable = false ∧ exceeds (s.src.w.toNat * s.src.h.toNat) s.params.grayCap = true ∧
      execGray s = .next (s.raise .capacityExceeded)) ∨
    (s.srcUnusable = false ∧ exceeds (s.src.w.toNat * s.src.h.toNat) s.params.grayCap = false ∧
      execGray s = .next (s.normalized.respond (BitVec.ofNat 64 (dims s.src.w.toNat s.src.h.toNat)))) := by
  unfold execGray
  cases hu : s.srcUnusable <;> cases hc : exceeds (s.src.w.toNat * s.src.h.toNat) s.params.grayCap <;>
    simp [hc, State.respondNat_of_lt _ (State.dims_lt s.src.w s.src.h), State.normalized]

/-- What a RESAMPLE answers (42_resampler.md R132). -/
theorem resample_cases (buf : ImageBuffer) (tw : Word) (dh : Nat) (s : State) :
    ((s.imageUnusable buf = true ∨ tw.toNat = 0) ∧ resample buf tw dh s = .next (s.raise .invalidInput)) ∨
    (s.imageUnusable buf = false ∧ tw.toNat ≠ 0 ∧ (s.imageW buf).toNat ≤ tw.toNat ∧
      resample buf tw dh s = .next (s.respond (BitVec.ofNat 64 (dims (s.imageW buf).toNat (s.imageH buf).toNat)))) ∨
    (s.imageUnusable buf = false ∧ tw.toNat ≠ 0 ∧ tw.toNat < (s.imageW buf).toNat ∧
      exceeds (tw.toNat * dh * s.imageChannels buf) (s.imageCap buf) = true ∧
      resample buf tw dh s = .next (s.raise .capacityExceeded)) ∨
    (s.imageUnusable buf = false ∧ tw.toNat ≠ 0 ∧ tw.toNat < (s.imageW buf).toNat ∧
      exceeds (tw.toNat * dh * s.imageChannels buf) (s.imageCap buf) = false ∧
      resample buf tw dh s = .next ((s.replaceImage tw.toNat dh (filterImage s.params.filter (s.imageSamples buf)
        (s.imageW buf).toNat (s.imageH buf).toNat (s.imageChannels buf) tw.toNat dh) buf).respondNat
          (dims tw.toNat dh))) := by
  have hd := State.dims_lt (s.imageW buf) (s.imageH buf)
  unfold resample
  cases hu : s.imageUnusable buf
  · by_cases h0 : tw.toNat = 0
    · simp [h0]
    · by_cases hw : (s.imageW buf).toNat ≤ tw.toNat
      · simp [h0, hw, Nat.not_lt.mpr hw, State.respondNat_of_lt _ hd]
      · cases hc : exceeds (tw.toNat * dh * s.imageChannels buf) (s.imageCap buf) <;>
          simp [h0, hw, hc, Nat.lt_of_not_le hw]
  · simp

/-- The aspect height is at most the source height when the width shrinks, so it fits its register (42_resampler.md R131). -/
theorem aspectHeight_le {sh tw sw : Nat} (h : tw < sw) : aspectHeight sh tw sw ≤ sh := by
  unfold aspectHeight
  rw [← Nat.lt_succ_iff, Nat.div_lt_iff_lt_mul (by omega)]
  have : 2 * sh * (tw + 1) ≤ 2 * sh * sw := Nat.mul_le_mul_left _ h
  have e1 : 2 * sh * (tw + 1) = 2 * sh * tw + 2 * sh := by ring
  have e2 : sh.succ * (2 * sw) = 2 * sh * sw + 2 * sw := by rw [Nat.succ_eq_add_one]; ring
  omega

/-- The state a DITHER in a supported mode leaves when it succeeds (43_dither.md R162). -/
def State.dithered (s : State) (mode : DitherMode) (t : Byte) : State :=
  { s with
    bmp := ⟨s.gray.w, s.gray.h, BitVec.ofNat 32 (strideOf s.gray.w.toNat), true,
      (ditherScan mode t s.gray.w.toNat s.gray.h.toNat (s.contents .gray)).bmp⟩
    acc := (ditherScan mode t s.gray.w.toNat s.gray.h.toNat (s.contents .gray)).acc }

/-- What the scan of a DITHER answers, past the mode check. -/
theorem ditherImage_cases (mode : DitherMode) (t : Byte) (s : State) :
    (exceeds (strideOf s.gray.w.toNat * s.gray.h.toNat) s.params.bmpCap = true ∧
      ditherImage mode t s = .next (s.raise .capacityExceeded)) ∨
    (exceeds (strideOf s.gray.w.toNat * s.gray.h.toNat) s.params.bmpCap = false ∧
      ditherImage mode t s =
        .next ((s.dithered mode t).respond (BitVec.ofNat 64 (dims s.gray.w.toNat s.gray.h.toNat)))) := by
  unfold ditherImage
  cases hc : exceeds (strideOf s.gray.w.toNat * s.gray.h.toNat) s.params.bmpCap <;>
    simp [hc, State.respondNat_of_lt _ (State.dims_lt s.gray.w s.gray.h), State.dithered]

/-- What a DITHER in a supported mode answers (43_dither.md R162). -/
theorem dither_cases (mode : DitherMode) (t : Byte) (s : State) :
    (s.grayUnusable = true ∧ dither mode t s = .next (s.raise .invalidInput)) ∨
    (s.grayUnusable = false ∧ dither mode t s = ditherImage mode t s) := by
  unfold dither
  cases s.grayUnusable <;> simp

/-- What DITHER.U answers (43_dither.md R161, R163). -/
theorem execDitherU_cases (mode t : Byte) (be : Bool) (s : State) :
    (s.grayUnusable = true ∧ execDitherU mode t be s = .next (s.raise .invalidInput)) ∨
    (s.grayUnusable = false ∧ be = true ∧ execDitherU mode t be s = ditherImage .threshold t s) ∨
    (s.grayUnusable = false ∧ be = false ∧ execDitherU mode t be s = .next (s.raise .unsupportedDitherMode)) := by
  unfold execDitherU
  cases s.grayUnusable <;> cases be <;> simp

/-- A bitmap's size fits the response (44_bitmap.md R180). -/
theorem stride_mul_lt (w h : Word) : strideOf w.toNat * h.toNat < 2 ^ 64 := by
  have h1 := strideOf_le w
  have h2 := h.isLt
  calc strideOf w.toNat * h.toNat ≤ 536870912 * 2 ^ 32 := Nat.mul_le_mul h1 (by omega)
    _ < 2 ^ 64 := by norm_num

/-- The state BMP_NEW leaves when it succeeds (44_bitmap.md R180). -/
def State.blankBitmap (s : State) (w h : Word) : State :=
  { s with bmp := ⟨w, h, BitVec.ofNat 32 (strideOf w.toNat), true, []⟩ }

/-- What BMP_NEW answers. -/
theorem execBmpNew_cases (w h : Word) (s : State) :
    (exceeds (strideOf w.toNat * h.toNat) s.params.bmpCap = true ∧
      execBmpNew w h s = .next (s.raise .capacityExceeded)) ∨
    (exceeds (strideOf w.toNat * h.toNat) s.params.bmpCap = false ∧
      execBmpNew w h s = .next ((s.blankBitmap w h).respond (BitVec.ofNat 64 (strideOf w.toNat * h.toNat)))) := by
  unfold execBmpNew
  cases hc : exceeds (strideOf w.toNat * h.toNat) s.params.bmpCap <;>
    simp [hc, State.respondNat_of_lt _ (stride_mul_lt w h), State.blankBitmap]

/-- The state SET_PIXEL leaves when it succeeds (44_bitmap.md R184). -/
def State.withPixel (s : State) (x y : Word) (black : Bool) : State :=
  { s with bmp := { s.bmp with mem := s.bmp.mem.setPixel s.bmp.stride.toNat x.toNat y.toNat black } }

/-- What SET_PIXEL answers. -/
theorem execSetPixel_cases (x y : Word) (black : Bool) (s : State) :
    (s.bmp.valid = false ∧ execSetPixel x y black s = .next (s.raise .invalidInput)) ∨
    (s.bmp.valid = true ∧ s.pixelOutside x y = true ∧ execSetPixel x y black s = s.fatalStop pixelOutOfRange) ∨
    (s.bmp.valid = true ∧ s.pixelOutside x y = false ∧
      execSetPixel x y black s = .next ((s.withPixel x y black).respond 0)) := by
  unfold execSetPixel
  rw [isNil_bmp]
  cases s.bmp.valid <;> cases s.pixelOutside x y <;> simp [State.withPixel]

/-- What GET_PIXEL answers. -/
theorem execGetPixel_cases (x y : Word) (s : State) :
    (s.bmp.valid = false ∧ execGetPixel x y s = .next (s.raise .invalidInput)) ∨
    (s.bmp.valid = true ∧ s.pixelOutside x y = true ∧ execGetPixel x y s = s.fatalStop pixelOutOfRange) ∨
    (s.bmp.valid = true ∧ s.pixelOutside x y = false ∧
      execGetPixel x y s = .next (s.respond (if s.pixel x.toNat y.toNat then 1 else 0))) := by
  unfold execGetPixel
  rw [isNil_bmp]
  cases s.bmp.valid <;> cases s.pixelOutside x y <;> simp
  rfl

/-- What RASTER_BYTES answers. -/
theorem execRasterBytes_cases (s : State) :
    (s.bmp.valid = false ∧ execRasterBytes s = .next (s.raise .invalidInput)) ∨
    (s.bmp.valid = true ∧ execRasterBytes s = .next (s.respond (BitVec.ofNat 64 (s.bmp.stride.toNat * s.bmp.h.toNat)))) := by
  have hn : s.bmp.stride.toNat * s.bmp.h.toNat < 2 ^ 64 := by
    have := s.bmp.stride.isLt
    have := s.bmp.h.isLt
    calc s.bmp.stride.toNat * s.bmp.h.toNat ≤ (2 ^ 32 - 1) * (2 ^ 32 - 1) := Nat.mul_le_mul (by omega) (by omega)
      _ < 2 ^ 64 := by norm_num
  unfold execRasterBytes
  rw [isNil_bmp]
  cases s.bmp.valid <;> simp [State.respondNat_of_lt _ hn]

/-- The length of a tag (00_scope.md R10). -/
theorem tag_length (g : Tag) : g.bytes.length = 2 ∨ g.bytes.length = 3 := by cases g <;> simp [Tag.bytes]

/-- The RasterCommand's length fits `OUT_LEN`, for the two field widths (30_encoding.md R94). -/
theorem rasterCommandLength_lt (g : Tag) {F : Nat} (hF : F ≤ 4) (wb h : Word) :
    rasterCommandLength g F (wb.toNat * h.toNat) < 2 ^ 64 := by
  have h1 := wb.isLt
  have h2 := h.isLt
  have h3 : wb.toNat * h.toNat ≤ (2 ^ 32 - 1) * (2 ^ 32 - 1) := Nat.mul_le_mul (by omega) (by omega)
  have := tag_length g
  unfold rasterCommandLength
  omega

/-- The state an ENCODE leaves when it succeeds (45_encoder.md R209). -/
def State.encoded (s : State) (m : PrintMode) (F : Nat) (g : Tag) : State :=
  { s with out := ⟨BitVec.ofNat 64 (rasterCommandLength g F (s.bmp.stride.toNat * s.bmp.h.toNat)), true,
      Memory.ofBytes Buffer.out.unlisted 0 (rasterCommand g m F s.bmp.stride.toNat s.bmp.h.toNat
        (s.bytesAt .bmp 0 (s.bmp.stride.toNat * s.bmp.h.toNat)))⟩ }

/-- What an ENCODE answers, in the order of its checks (45_encoder.md R209, R213). -/
theorem encodeBitmap_cases (m : PrintMode) {F : Nat} (hF : F ≤ 4) (g : Tag) (lim : Nat) (s : State) :
    (s.profile.gfx = false ∧ encodeBitmap m F g lim s = .refused .graphicsUnsupported) ∨
    (s.profile.gfx = true ∧
      ((s.bmp.valid = false ∧ encodeBitmap m F g lim s = .next (s.raise .invalidInput)) ∨
      (s.bmp.valid = true ∧
        (((s.bmp.stride.toNat = 0 ∨ s.bmp.h.toNat = 0) ∧ encodeBitmap m F g lim s = .next (s.raise .emptyImage)) ∨
        (¬(s.bmp.stride.toNat = 0 ∨ s.bmp.h.toNat = 0) ∧
          (((lim < s.bmp.stride.toNat ∨ lim < s.bmp.h.toNat) ∧
            encodeBitmap m F g lim s = .next (s.raise .dimensionOutOfRange)) ∨
          (¬(lim < s.bmp.stride.toNat ∨ lim < s.bmp.h.toNat) ∧
            ((s.profile.maxBuf.toNat < s.bmp.stride.toNat * s.bmp.h.toNat ∧
              encodeBitmap m F g lim s = .next (s.raise .bufferOverflow)) ∨
            (s.bmp.stride.toNat * s.bmp.h.toNat ≤ s.profile.maxBuf.toNat ∧
              ((exceeds (rasterCommandLength g F (s.bmp.stride.toNat * s.bmp.h.toNat)) s.params.outCap = true ∧
                encodeBitmap m F g lim s = .next (s.raise .capacityExceeded)) ∨
              (exceeds (rasterCommandLength g F (s.bmp.stride.toNat * s.bmp.h.toNat)) s.params.outCap = false ∧
                encodeBitmap m F g lim s = .next ((s.encoded m F g).respond
                  (BitVec.ofNat 64 (rasterCommandLength g F (s.bmp.stride.toNat * s.bmp.h.toNat))))))))))))))) := by
  have hL := rasterCommandLength_lt g hF s.bmp.stride s.bmp.h
  unfold encodeBitmap
  rw [isNil_bmp]
  cases s.profile.gfx
  · simp
  cases s.bmp.valid
  · simp
  by_cases h0 : s.bmp.stride.toNat = 0 ∨ s.bmp.h.toNat = 0
  · simp only [h0, if_true]; simp
  by_cases h1 : lim < s.bmp.stride.toNat ∨ lim < s.bmp.h.toNat
  · simp only [h0, h1, if_true, if_false]; simp
  by_cases h2 : s.profile.maxBuf.toNat < s.bmp.stride.toNat * s.bmp.h.toNat
  · simp only [h0, h1, h2, if_true, if_false]; simp
  cases hc : exceeds (rasterCommandLength g F (s.bmp.stride.toNat * s.bmp.h.toNat)) s.params.outCap <;>
    simp only [h0, h1, h2, hc, if_false, State.respondNat_of_lt _ hL] <;> simp [State.encoded, Nat.le_of_not_lt h2]

end Sys2Proof.Machine
end

