-- ==== Sys2Proof/Laws/Ending.lean ====
section
/-! SUPPORT. The inversion lemma over all commands: how a command can end, and what each ending leaves alone. -/

namespace Sys2Proof.Machine

/-- How a command ends: an error response on the unchanged state; `OK` on a state in which only the command's own buffers
differ; the fatal stop; or the refusal of an encoder without graphics. -/
inductive Ending (i : Instr) (s : State) : Prop where
  | error (c : Code) (answer : exec i s = .next (s.raise c)) (code : c ≠ .ok)
  | ok (u : State) (d : DWord) (answer : exec i s = .next (u.respond d))
      (observed : u.observed = s.observed) (host : u.host = s.host)
      (inputs : u.profile = s.profile ∧ u.params = s.params ∧ u.fatal = s.fatal ∧ u.fatalCause = s.fatalCause)
      (src : u.src ≠ s.src → (∃ fmt w h, i = .srcDef fmt w h) ∨ IsResampleOf .src i)
      (gray : u.gray ≠ s.gray → i = .gray ∨ IsResampleOf .gray i)
      (bmp : u.bmp ≠ s.bmp → IsDither i ∨ (∃ w h, i = .bmpNew w h) ∨ ∃ x y b, i = .setPixel x y b)
      (out : u.out ≠ s.out → ∃ m, i = .encodeStd m ∨ i = .encodeLarge m)
      (acc : u.acc ≠ s.acc → IsDither i)
      (valid : ∀ b, s.validBit b = true → u.validBit b = true)
  | fatalStop (x y : Word) (command : (∃ b, i = .setPixel x y b) ∨ i = .getPixel x y) (valid : s.bmp.valid = true)
      (outside : s.pixelOutside x y = true) (answer : exec i s = .fault (.fatalStop (s.haltWith pixelOutOfRange)))
  | refused (m : PrintMode) (command : i = .encodeStd m ∨ i = .encodeLarge m) (gfx : s.profile.gfx = false)
      (answer : exec i s = .refused .graphicsUnsupported)

/-- `respondNat` answers `OK` and touches nothing but the counter of free values. -/
theorem respondNat_ending (u : State) (n : Nat) : ∃ (v : State) (d : DWord),
    u.respondNat n = v.respond d ∧ (v = u ∨ v = { u with draws := u.draws + 1 }) := by
  unfold State.respondNat
  split
  · exact ⟨u, _, rfl, .inl rfl⟩
  · exact ⟨_, _, rfl, .inr rfl⟩

theorem resample_ending {i : Instr} {s : State} {buf : ImageBuffer} {tw : Word} {dh : Nat} (hi : IsResampleOf buf i)
    (he : exec i s = resample buf tw dh s) : Ending i s := by
  rcases resample_cases buf tw dh s with ⟨_, h⟩ | ⟨_, _, _, h⟩ | ⟨_, _, _, _, h⟩ | ⟨_, _, _, _, h⟩
  · exact .error _ (he.trans h) (by decide)
  · exact .ok s _ (he.trans h) rfl rfl (by simp) (by simp) (by simp) (by simp) (by simp) (by simp) (by simp)
  · exact .error _ (he.trans h) (by decide)
  · obtain ⟨v, d, e, hv⟩ := respondNat_ending (s.replaceImage tw.toNat dh (filterImage s.params.filter
      (s.imageSamples buf) (s.imageW buf).toNat (s.imageH buf).toNat (s.imageChannels buf) tw.toNat dh) buf)
      (dims tw.toNat dh)
    rw [e] at h
    cases buf <;> rcases hv with rfl | rfl <;>
      refine .ok _ d (he.trans h) (by simp) (by simp) (by simp) ?_ ?_ (by simp) (by simp) (by simp) ?_
    all_goals first
      | exact fun _ => .inr hi
      | (intro b; cases b <;> simp [State.validBit])
      | simp

theorem ditherImage_ending {i : Instr} {s : State} {mode : DitherMode} {t : Byte} (hi : IsDither i)
    (he : exec i s = ditherImage mode t s) : Ending i s := by
  rcases ditherImage_cases mode t s with ⟨_, h⟩ | ⟨_, h⟩
  · exact .error _ (he.trans h) (by decide)
  · refine .ok _ _ (he.trans h) rfl rfl ⟨rfl, rfl, rfl, rfl⟩ (by simp [State.dithered]) (by simp [State.dithered])
      (fun _ => .inl hi) (by simp [State.dithered]) (fun _ => hi) ?_
    intro b; cases b <;> simp [State.validBit, State.dithered]

theorem dither_ending {i : Instr} {s : State} {mode : DitherMode} {t : Byte} (hi : IsDither i)
    (he : exec i s = dither mode t s) : Ending i s := by
  rcases dither_cases mode t s with ⟨_, h⟩ | ⟨_, h⟩
  · exact .error _ (he.trans h) (by decide)
  · exact ditherImage_ending hi (he.trans h)

theorem encodeBitmap_ending {i : Instr} {s : State} {m : PrintMode} {F lim : Nat} {tag : Tag} (hF : F ≤ 4)
    (hi : i = .encodeStd m ∨ i = .encodeLarge m) (he : exec i s = encodeBitmap m F tag lim s) : Ending i s := by
  rcases encodeBitmap_cases m hF tag lim s with
    ⟨hg, h⟩ | ⟨_, ⟨_, h⟩ | ⟨_, ⟨_, h⟩ | ⟨_, ⟨_, h⟩ | ⟨_, ⟨_, h⟩ | ⟨_, ⟨_, h⟩ | ⟨_, h⟩⟩⟩⟩⟩⟩
  · exact .refused m hi hg (he.trans h)
  all_goals try exact .error _ (he.trans h) (by decide)
  refine .ok _ _ (he.trans h) rfl rfl ⟨rfl, rfl, rfl, rfl⟩ (by simp [State.encoded]) (by simp [State.encoded])
    (by simp [State.encoded]) (fun _ => ⟨m, hi⟩) (by simp [State.encoded]) ?_
  intro b; cases b <;> simp [State.validBit, State.encoded]

/-- Every command ends in one of the four ways. -/
theorem exec_ending (i : Instr) (s : State) : Ending i s := by
  cases i with
  | srcDef fmt w h =>
    rcases execSrcDef_cases fmt w h s with ⟨_, e⟩ | ⟨_, e⟩
    · exact .error _ e (by decide)
    · obtain ⟨v, d, e', hv⟩ := respondNat_ending (s.defineSource fmt w h) (w.toNat * h.toNat * channels fmt)
      rw [e'] at e
      rcases hv with rfl | rfl <;>
        refine .ok _ d e (by simp) (by simp) (by simp) (fun _ => .inl ⟨_, _, _, rfl⟩) (by simp) (by simp) (by simp)
          (by simp) ?_ <;>
        intro b <;> cases b <;> simp [State.validBit]
  | rdcsr n =>
    rcases execRdcsr_cases n s with ⟨_, _, e⟩ | ⟨_, e⟩
    · exact .ok s _ e rfl rfl (by simp) (by simp) (by simp) (by simp) (by simp) (by simp) (by simp)
    · refine .ok { s with draws := s.draws + 1 } _ e rfl rfl (by simp) (by simp) (by simp) (by simp) (by simp)
        (by simp) ?_
      intro b; cases b <;> simp [State.validBit]
  | gray =>
    rcases execGray_cases s with ⟨_, e⟩ | ⟨_, _, e⟩ | ⟨_, _, e⟩
    · exact .error _ e (by decide)
    · exact .error _ e (by decide)
    · refine .ok _ _ e rfl rfl ⟨rfl, rfl, rfl, rfl⟩ (by simp [State.normalized]) (fun _ => .inl rfl)
        (by simp [State.normalized]) (by simp [State.normalized]) (by simp [State.normalized]) ?_
      intro b; cases b <;> simp [State.validBit, State.normalized]
  | resampleX buf tw th => exact resample_ending (.inl ⟨_, _, rfl⟩) rfl
  | resampleA buf tw => exact resample_ending (.inr ⟨_, rfl⟩) rfl
  | ditherT t be => exact dither_ending (.inl ⟨_, _, rfl⟩) rfl
  | ditherFs t be => exact dither_ending (.inr (.inl ⟨_, _, rfl⟩)) rfl
  | ditherAtk t be => exact dither_ending (.inr (.inr (.inl ⟨_, _, rfl⟩))) rfl
  | ditherU mode t be =>
    rcases execDitherU_cases mode t be s with ⟨_, e⟩ | ⟨_, _, e⟩ | ⟨_, _, e⟩
    · exact .error _ e (by decide)
    · exact ditherImage_ending (.inr (.inr (.inr ⟨_, _, _, rfl⟩))) e
    · exact .error _ e (by decide)
  | bmpNew w h =>
    rcases execBmpNew_cases w h s with ⟨_, e⟩ | ⟨_, e⟩
    · exact .error _ e (by decide)
    · refine .ok _ _ e rfl rfl ⟨rfl, rfl, rfl, rfl⟩ (by simp [State.blankBitmap]) (by simp [State.blankBitmap])
        (fun _ => .inr (.inl ⟨_, _, rfl⟩)) (by simp [State.blankBitmap]) (by simp [State.blankBitmap]) ?_
      intro b; cases b <;> simp [State.validBit, State.blankBitmap]
  | setPixel x y black =>
    rcases execSetPixel_cases x y black s with ⟨_, e⟩ | ⟨hv, hx, e⟩ | ⟨_, _, e⟩
    · exact .error _ e (by decide)
    · exact .fatalStop x y (.inl ⟨_, rfl⟩) hv hx e
    · refine .ok _ _ e rfl rfl ⟨rfl, rfl, rfl, rfl⟩ (by simp [State.withPixel]) (by simp [State.withPixel])
        (fun _ => .inr (.inr ⟨_, _, _, rfl⟩)) (by simp [State.withPixel]) (by simp [State.withPixel]) ?_
      intro b; cases b <;> simp [State.validBit, State.withPixel]
  | getPixel x y =>
    rcases execGetPixel_cases x y s with ⟨_, e⟩ | ⟨hv, hx, e⟩ | ⟨_, _, e⟩
    · exact .error _ e (by decide)
    · exact .fatalStop x y (.inr rfl) hv hx e
    · exact .ok s _ e rfl rfl (by simp) (by simp) (by simp) (by simp) (by simp) (by simp) (by simp)
  | rasterBytes =>
    rcases execRasterBytes_cases s with ⟨_, e⟩ | ⟨_, e⟩
    · exact .error _ e (by decide)
    · exact .ok s _ e rfl rfl (by simp) (by simp) (by simp) (by simp) (by simp) (by simp) (by simp)
  | encodeStd m => exact encodeBitmap_ending (by decide) (.inl rfl) rfl
  | encodeLarge m => exact encodeBitmap_ending (by decide) (.inr rfl) rfl

/-! What the terms of the claims come to. -/

/-- A command that raises an error answers that code and no other. -/
theorem answers_of_raise {i : Instr} {s : State} {c e : Code} (h : exec i s = .next (s.raise e)) :
    Answers i s c ↔ c = e := by
  constructor
  · rintro ⟨t, d, ht, ho⟩
    rw [h] at ht
    cases ht
    simp only [State.raise, State.observe, List.append_cancel_left_eq, List.cons.injEq, Observation.response.injEq] at ho
    exact ho.1.1.symm
  · rintro rfl
    exact ⟨_, _, h, rfl⟩

/-- A command that responds answers `OK` and no other code. -/
theorem answers_of_respond {i : Instr} {s u : State} {c : Code} {d : DWord} (h : exec i s = .next (u.respond d))
    (hu : u.observed = s.observed) : Answers i s c ↔ c = .ok := by
  constructor
  · rintro ⟨t, e, ht, ho⟩
    rw [h] at ht
    cases ht
    simp only [State.respond, State.observe, hu, List.append_cancel_left_eq, List.cons.injEq,
      Observation.response.injEq] at ho
    exact ho.1.1.symm
  · rintro rfl
    exact ⟨_, d, h, by simp [State.respond, State.observe, hu]⟩

/-- A fault is no answer. -/
theorem not_answers_of_fault {i : Instr} {s : State} {c : Code} {f : Fault} (h : exec i s = .fault f) :
    ¬Answers i s c := by
  rintro ⟨t, d, ht, -⟩
  rw [h] at ht
  cases ht

/-- A refusal is no answer. -/
theorem not_answers_of_refused {i : Instr} {s : State} {c : Code} {r : Refusal} (h : exec i s = .refused r) :
    ¬Answers i s c := by
  rintro ⟨t, d, ht, -⟩
  rw [h] at ht
  cases ht

theorem not_fits_iff {n : Nat} {cap : Option Nat} : ¬Fits n cap ↔ exceeds n cap = true := by
  cases cap <;> simp [exceeds, Fits]

theorem word_toNat_eq_zero {w : Word} : w.toNat = 0 ↔ w = 0 :=
  ⟨fun h => BitVec.eq_of_toNat_eq (by simpa using h), fun h => by rw [h]; rfl⟩

theorem srcHoldsImage_iff {s : State} : s.srcHoldsImage ↔ s.srcUnusable = false := by
  rw [← Bool.not_eq_true, srcUnusable_eq_true, State.srcHoldsImage]
  cases s.src.valid <;> simp

theorem grayHoldsImage_iff {s : State} : s.grayHoldsImage ↔ s.grayUnusable = false := by
  rw [← Bool.not_eq_true, grayUnusable_eq_true, State.grayHoldsImage]
  cases s.gray.valid <;> simp

theorem holdsImage_iff {s : State} {buf : ImageBuffer} : s.holdsImage buf ↔ s.imageUnusable buf = false := by
  cases buf
  · exact srcHoldsImage_iff
  · exact grayHoldsImage_iff

/-- What every step keeps holds of every state that is reached. -/
theorem Reaches.keeps {P : State → Prop} (hstep : ∀ s t, P s → step s = .next t → P t) {s t : State} (hr : Reaches s t)
    (hs : P s) : P t := by
  induction hr with
  | refl => exact hs
  | tail _ h ih => exact hstep _ _ ih h

end Sys2Proof.Machine
end

