-- ==== Sys2Proof/Laws/PerInstr.lean ====
section
/-! SUPPORT. Statements made per instruction. Family OpcodeRow: the fields of a well-formed command select the command's own
row of the opcode map (30_encoding.md R83). -/

namespace Sys2Proof.Laws.OpcodeRow

/-- A well-formed command's fields select the row of its mnemonic, by the first match. -/
def Statement (i : Instr) : Prop :=
  i.wellFormed = true → (selectRow i.fields).map (·.mnemonic) = some i.mnemonic

theorem srcDef (fmt : PixelFormat) (w h : Word) : Statement (.srcDef fmt w h) := fun _ => by
  cases fmt <;> simp [selectRow, opcodeTable, Row.selects, Row.srcDef, Instr.fields, PixelFormat.code, Instr.mnemonic]

theorem rdcsr (n : Csr) : Statement (.rdcsr n) := fun _ => by
  simp [selectRow, opcodeTable, Row.selects, Row.srcDef, Row.rdcsr, Instr.fields, Instr.mnemonic]

theorem gray : Statement .gray := fun _ => by decide

theorem resampleX (buf : ImageBuffer) (tw th : Word) : Statement (.resampleX buf tw th) := fun _ => by
  cases buf <;> simp [selectRow, opcodeTable, Row.selects, Row.srcDef, Row.rdcsr, Row.gray, Row.resampleX, Instr.fields,
    ImageBuffer.code, Instr.mnemonic]

theorem resampleA (buf : ImageBuffer) (tw : Word) : Statement (.resampleA buf tw) := fun _ => by
  cases buf <;> simp [selectRow, opcodeTable, Row.selects, Row.srcDef, Row.rdcsr, Row.gray, Row.resampleX, Row.resampleA,
    Instr.fields, ImageBuffer.code, Instr.mnemonic]

theorem ditherT (t : Byte) (be : Bool) : Statement (.ditherT t be) := fun _ => by
  cases be <;>
    simp [selectRow, opcodeTable, Row.selects, Row.srcDef, Row.rdcsr, Row.gray, Row.resampleX, Row.resampleA,
      Row.ditherT, DitherMode.code, flagByte, Instr.fields, Instr.mnemonic]

theorem ditherFs (t : Byte) (be : Bool) : Statement (.ditherFs t be) := fun _ => by
  cases be <;>
    simp [selectRow, opcodeTable, Row.selects, Row.srcDef, Row.rdcsr, Row.gray, Row.resampleX, Row.resampleA,
      Row.ditherT, Row.ditherFs, DitherMode.code, flagByte, Instr.fields, Instr.mnemonic]

theorem ditherAtk (t : Byte) (be : Bool) : Statement (.ditherAtk t be) := fun _ => by
  cases be <;>
    simp [selectRow, opcodeTable, Row.selects, Row.srcDef, Row.rdcsr, Row.gray, Row.resampleX, Row.resampleA,
      Row.ditherT, Row.ditherFs, Row.ditherAtk, DitherMode.code, flagByte, Instr.fields, Instr.mnemonic]

/-- A byte masked whole is itself. -/
theorem and_ff (b : Byte) : b &&& 0xFF#8 = b := by revert b; decide

theorem ditherU (mode t : Byte) (be : Bool) : Statement (.ditherU mode t be) := fun h => by
  have h3 : 3 ≤ mode.toNat := by simpa [Instr.wellFormed] using h
  have h0 : mode ≠ 0#8 := fun e => by simp [e] at h3
  have h1 : mode ≠ 1#8 := fun e => by simp [e] at h3
  have h2 : mode ≠ 2#8 := fun e => by simp [e] at h3
  cases be <;>
    simp [selectRow, opcodeTable, Row.selects, Row.srcDef, Row.rdcsr, Row.gray, Row.resampleX, Row.resampleA,
      Row.ditherT, Row.ditherFs, Row.ditherAtk, Row.ditherU, flagByte, Instr.fields, Instr.mnemonic, and_ff, h0, h1, h2]

theorem bmpNew (w h : Word) : Statement (.bmpNew w h) := fun _ => by
  simp [selectRow, opcodeTable, Row.selects, Row.srcDef, Row.rdcsr, Row.gray, Row.resampleX, Row.resampleA,
    Row.ditherT, Row.ditherFs, Row.ditherAtk, Row.ditherU, Row.bmpNew, Instr.fields, Instr.mnemonic]

theorem setPixel (x y : Word) (black : Bool) : Statement (.setPixel x y black) := fun _ => by
  cases black <;>
    simp [selectRow, opcodeTable, Row.selects, Row.srcDef, Row.rdcsr, Row.gray, Row.resampleX, Row.resampleA,
      Row.ditherT, Row.ditherFs, Row.ditherAtk, Row.ditherU, Row.bmpNew, Row.setPixel, flagByte, Instr.fields,
      Instr.mnemonic]

theorem getPixel (x y : Word) : Statement (.getPixel x y) := fun _ => by
  simp [selectRow, opcodeTable, Row.selects, Row.srcDef, Row.rdcsr, Row.gray, Row.resampleX, Row.resampleA,
    Row.ditherT, Row.ditherFs, Row.ditherAtk, Row.ditherU, Row.bmpNew, Row.setPixel, Row.getPixel,
    Instr.fields, Instr.mnemonic]

theorem rasterBytes : Statement .rasterBytes := fun _ => by decide

theorem encodeStd (m : PrintMode) : Statement (.encodeStd m) := fun _ => by
  cases m <;>
    simp [selectRow, opcodeTable, Row.selects, Row.srcDef, Row.rdcsr, Row.gray, Row.resampleX, Row.resampleA,
      Row.ditherT, Row.ditherFs, Row.ditherAtk, Row.ditherU, Row.bmpNew, Row.setPixel, Row.getPixel,
      Row.rasterBytes, Row.encodeStd, PrintMode.code, Instr.fields, Instr.mnemonic]

theorem encodeLarge (m : PrintMode) : Statement (.encodeLarge m) := fun _ => by
  cases m <;>
    simp [selectRow, opcodeTable, Row.selects, Row.srcDef, Row.rdcsr, Row.gray, Row.resampleX, Row.resampleA,
      Row.ditherT, Row.ditherFs, Row.ditherAtk, Row.ditherU, Row.bmpNew, Row.setPixel, Row.getPixel,
      Row.rasterBytes, Row.encodeStd, Row.encodeLarge, PrintMode.code, Instr.fields, Instr.mnemonic]

end Sys2Proof.Laws.OpcodeRow
end

