-- ==== Sys2Proof/Laws/Samples.lean ====
section
/-! SUPPORT. The lengths of the samples, cells and bytes the commands produce, and the bytes of a buffer's contents. -/

namespace Sys2Proof.Machine

theorem leBytes_length (n v : Nat) : (leBytes n v).length = n := by
  induction n generalizing v with
  | zero => rfl
  | succ n ih => simp [leBytes, ih]

theorem leValue_leBytes {n v : Nat} (h : v < 256 ^ n) : leValue (leBytes n v) = v := by
  induction n generalizing v with
  | zero => simp_all [leBytes, leValue]
  | succ n ih =>
    rw [leBytes, leValue, ih (by rw [Nat.pow_succ] at h; omega), BitVec.toNat_ofNat]
    omega

theorem graySamples_length (fmt : PixelFormat) (S : List Byte) (n : Nat) : (graySamples fmt S n).length = n := by
  simp [graySamples]

theorem bilinear_length (S : List Byte) (sw sh ch dw dh : Nat) : (bilinear S sw sh ch dw dh).length = dw * dh * ch := by
  simp only [bilinear, List.length_flatMap, List.length_map, List.length_range, List.map_const', List.sum_replicate,
    smul_eq_mul]
  ring

theorem filterImage_length (k : Filter) (S : List Byte) (sw sh ch dw dh : Nat) :
    (filterImage k S sw sh ch dw dh).length = dw * dh * ch := by
  cases k
  · exact bilinear_length S sw sh ch dw dh
  · simp [filterImage]

theorem rasterCommand_length (tag : Tag) (m : PrintMode) (F wb h : Nat) (payload : List Byte) :
    (rasterCommand tag m F wb h payload).length = rasterCommandLength tag F payload.length := by
  simp only [rasterCommand, rasterCommandLength, List.length_append, List.length_singleton, leBytes_length]
  ring

theorem addShare_length (w h : Nat) (acc : List Int) (x y v : Int) : (addShare w h acc x y v).length = acc.length := by
  unfold addShare; split <;> simp

theorem diffuse_length (mode : DitherMode) (w h x y : Nat) (err : Int) (acc : List Int) :
    (diffuse mode w h x y err acc).length = acc.length := by
  unfold diffuse
  induction errorShares mode err generalizing acc with
  | nil => rfl
  | cons e es ih => rw [List.foldl_cons, ih, addShare_length]

theorem ditherPixel_acc_length (mode : DitherMode) (t : Byte) (w h : Nat) (d : DitherScan) (p : Nat × Nat) :
    (ditherPixel mode t w h d p).acc.length = d.acc.length := by
  simp [ditherPixel, diffuse_length]

/-- A scan, whatever its pixels, sets and clears pixels of the bitmap one after the other. -/
theorem foldl_ditherPixel_bmp_wf (mode : DitherMode) (t : Byte) (w h : Nat) (ps : List (Nat × Nat)) (d : DitherScan)
    (hd : d.bmp.wf Buffer.bmp.unlisted = true) :
    (ps.foldl (ditherPixel mode t w h) d).bmp.wf Buffer.bmp.unlisted = true := by
  induction ps generalizing d with
  | nil => exact hd
  | cons p ps ih => exact ih _ (Memory.wf_setPixel hd)

theorem mem_scanOrder {w h : Nat} {p : Nat × Nat} : p ∈ scanOrder w h ↔ p.1 < w ∧ p.2 < h := by
  simp only [scanOrder, List.mem_flatMap, List.mem_range, List.mem_map]
  constructor
  · rintro ⟨y, hy, x, hx, rfl⟩; exact ⟨hx, hy⟩
  · exact fun ⟨hx, hy⟩ => ⟨p.2, hy, p.1, hx, rfl⟩

theorem scanOrder_length (w h : Nat) : (scanOrder w h).length = w * h := by
  simp [scanOrder, Nat.mul_comm]

theorem bytesAt_length (s : State) (b : Buffer) (a n : Nat) : (s.bytesAt b a n).length = n := Memory.window_length

theorem contents_length (s : State) (b : Buffer) : (s.contents b).length = s.sizeOf b := bytesAt_length s b 0 _

/-- A byte of a buffer's contents is the byte at its offset. -/
theorem contents_getD {s : State} {b : Buffer} {k : Nat} (hm : (s.memOf b).rising = true) (hk : k < s.sizeOf b) :
    (s.contents b).getD k 0 = s.byteAt b k := by
  have h := Memory.readBytes_getElem? (d := s.unlistedByte b) (a := 0) hm hk
  rw [Nat.zero_add] at h
  rw [List.getD_eq_getElem?_getD]
  exact (congrArg (Option.getD · 0) h).trans rfl

end Sys2Proof.Machine
end

