-- ==== Sys2Proof/Tests/Slice0.lean ====
section
/-! SUPPORT. The author's tests: the smoke test of WellFormed, written-out descriptors, one-step results from the vectors V<n>
of spec/95_test_vectors.md, and for every obligation with hypotheses a witness that meets them. -/

namespace Sys2Proof.Tests

open Sys2Proof Sys2Proof.Machine

/-! ## Helpers -/

/-- After reset, with a concrete large tag: `Config.tagLarge` has no value to test with. -/
def base : State := { State.reset with params := { Config.defaultParams with tagLarge := .two 0xAB 0xCD } }

/-- `base` with GRAY loaded. -/
def withGray (w h : Word) (bs : List Byte) : State :=
  { base with gray := ⟨w, h, true, Memory.ofBytes Buffer.gray.unlisted 0 bs⟩ }

/-- `base` with SRC loaded. -/
def withSrc (fmt : PixelFormat) (w h : Word) (bs : List Byte) : State :=
  { base with src := ⟨w, h, fmt, true, Memory.ofBytes Buffer.src.unlisted 0 bs⟩ }

/-- `base` with a bitmap loaded. -/
def withBmp (w h : Word) (bs : List Byte) : State :=
  { base with bmp := ⟨w, h, BitVec.ofNat 32 (strideOf w.toNat), true, Memory.ofBytes Buffer.bmp.unlisted 0 bs⟩ }

/-- The state that was answered, if one was. -/
def answered : Result → Option State
  | .next t => some t
  | .fault _ => none
  | .refused _ => none

/-- The last response given. -/
def response (r : Result) : Option Observation := (answered r).bind fun t => t.observed.getLast?

/-- The contents of a buffer in the answered state. -/
def after (b : Buffer) (r : Result) : Option (List Byte) := (answered r).map fun t => t.contents b

/-- `OK` with a number. -/
def ok (n : Nat) : Option Observation := some (.response .ok (BitVec.ofNat 64 n))

/-- An error response. -/
def err (c : Code) : Option Observation := some (.response c 0)

/-- A descriptor as a command the host presents. -/
def presented (bs : List Byte) : HostAction := .command ((Descriptor.ofBytes bs).getD 0)

/-! ## WellFormed: the one check, each code it must refuse -/

theorem test_ditherU_threshold_code_ill_formed : (Instr.ditherU 0 128 false).wellFormed = false := by decide
theorem test_ditherU_floydSteinberg_code_ill_formed : (Instr.ditherU 1 128 false).wellFormed = false := by decide
theorem test_ditherU_atkinson_code_ill_formed : (Instr.ditherU 2 128 true).wellFormed = false := by decide
theorem test_ditherU_first_code_well_formed : (Instr.ditherU 3 128 true).wellFormed = true := by decide

/-! ## Decoding: descriptors written out in 95_test_vectors.md and 30_encoding.md R81 to R91, one or more for every row -/

theorem test_decode_srcDef_gray8 :
    decodeBytes [0x01, 0, 0, 0, 0x10, 0, 0, 0, 0x08, 0, 0, 0] = some (.srcDef .gray8 16 8) := by decide
theorem test_decode_srcDef_rgb888 :
    decodeBytes [0x01, 0x01, 0, 0, 0x04, 0, 0, 0, 0x02, 0, 0, 0] = some (.srcDef .rgb888 4 2) := by decide
theorem test_decode_rdcsr : decodeBytes [0x02, 0x40, 0, 0, 0, 0, 0, 0, 0, 0, 0, 0] = some (.rdcsr .outLen) := by decide
theorem test_decode_gray : decodeBytes [0x10, 0, 0, 0, 0, 0, 0, 0, 0, 0, 0, 0] = some .gray := by decide
theorem test_decode_resampleX_gray :
    decodeBytes [0x11, 0x02, 0, 0, 0x04, 0, 0, 0, 0x01, 0, 0, 0] = some (.resampleX .gray 4 1) := by decide
theorem test_decode_resampleX_src :
    decodeBytes [0x11, 0x00, 0, 0, 0x02, 0, 0, 0, 0x01, 0, 0, 0] = some (.resampleX .src 2 1) := by decide
theorem test_decode_resampleA :
    decodeBytes [0x11, 0x03, 0, 0, 0x80, 0x01, 0, 0, 0, 0, 0, 0] = some (.resampleA .gray 384) := by decide
theorem test_decode_ditherT :
    decodeBytes [0x20, 0x00, 0x80, 0, 0, 0, 0, 0, 0, 0, 0, 0] = some (.ditherT 128 false) := by decide
theorem test_decode_ditherFs :
    decodeBytes [0x20, 0x01, 0x80, 0x01, 0, 0, 0, 0, 0, 0, 0, 0] = some (.ditherFs 128 true) := by decide
theorem test_decode_ditherAtk :
    decodeBytes [0x20, 0x02, 0xFF, 0, 0, 0, 0, 0, 0, 0, 0, 0] = some (.ditherAtk 255 false) := by decide
theorem test_decode_ditherU :
    decodeBytes [0x20, 0x07, 0x80, 0x01, 0, 0, 0, 0, 0, 0, 0, 0] = some (.ditherU 7 128 true) := by decide
theorem test_decode_bmpNew :
    decodeBytes [0x30, 0, 0, 0, 0, 0, 0x01, 0, 0, 0x20, 0, 0] = some (.bmpNew 65536 8192) := by decide
theorem test_decode_setPixel :
    decodeBytes [0x31, 0x01, 0, 0, 0x09, 0, 0, 0, 0x02, 0, 0, 0] = some (.setPixel 9 2 true) := by decide
theorem test_decode_getPixel :
    decodeBytes [0x32, 0, 0, 0, 0x03, 0, 0, 0, 0x01, 0, 0, 0] = some (.getPixel 3 1) := by decide
theorem test_decode_rasterBytes : decodeBytes [0x33, 0, 0, 0, 0, 0, 0, 0, 0, 0, 0, 0] = some .rasterBytes := by decide
theorem test_decode_encodeStd :
    decodeBytes [0x40, 0x03, 0, 0, 0, 0, 0, 0, 0, 0, 0, 0] = some (.encodeStd .quadruple) := by decide
theorem test_decode_encodeLarge :
    decodeBytes [0x40, 0x01, 0x01, 0, 0, 0, 0, 0, 0, 0, 0, 0] = some (.encodeLarge .doubleWidth) := by decide

/-- The rows' `match` and `mask` as spec/opcode_table.json writes them. -/
theorem test_rows_match_the_table :
    opcodeTable.map (fun r => (r.mnemonic, r.pattern.descriptor, r.mask.descriptor)) =
      [("SRC_DEF", 0x000000000000000000000001#96, 0x0000000000000000FFFFFEFF#96),
        ("RDCSR", 0x000000000000000000000002#96, 0xFFFFFFFFFFFFFFFFFFFF00FF#96),
        ("GRAY", 0x000000000000000000000010#96, 0xFFFFFFFFFFFFFFFFFFFFFFFF#96),
        ("RESAMPLE.X", 0x000000000000000000000011#96, 0x0000000000000000FFFFFDFF#96),
        ("RESAMPLE.A", 0x000000000000000000000111#96, 0xFFFFFFFF00000000FFFFFDFF#96),
        ("DITHER.T", 0x000000000000000000000020#96, 0xFFFFFFFFFFFFFFFFFE00FFFF#96),
        ("DITHER.FS", 0x000000000000000000000120#96, 0xFFFFFFFFFFFFFFFFFE00FFFF#96),
        ("DITHER.ATK", 0x000000000000000000000220#96, 0xFFFFFFFFFFFFFFFFFE00FFFF#96),
        ("DITHER.U", 0x000000000000000000000020#96, 0xFFFFFFFFFFFFFFFFFE0000FF#96)] ++
      [("BMP_NEW", 0x000000000000000000000030#96, 0x0000000000000000FFFFFFFF#96),
        ("SET_PIXEL", 0x000000000000000000000031#96, 0x0000000000000000FFFFFEFF#96),
        ("GET_PIXEL", 0x000000000000000000000032#96, 0x0000000000000000FFFFFFFF#96),
        ("RASTER_BYTES", 0x000000000000000000000033#96, 0xFFFFFFFFFFFFFFFFFFFFFFFF#96),
        ("ENCODE.STD", 0x000000000000000000000040#96, 0xFFFFFFFFFFFFFFFFFFFFFCFF#96),
        ("ENCODE.LARGE", 0x000000000000000000010040#96, 0xFFFFFFFFFFFFFFFFFFFFFCFF#96)] := by decide

/-- Illegal descriptors: V16, V17, V19e, V39c, V49b (twice), V64, and `C` bit 1 of V28. -/
theorem test_illegal_descriptors :
    [decodeBytes [0x02, 0x05, 0, 0, 0, 0, 0, 0, 0, 0, 0, 0], decodeBytes [0x01, 0x02, 0, 0, 0x04, 0, 0, 0, 0x02, 0, 0, 0],
      decodeBytes [0x10, 0, 0, 0, 0x01, 0, 0, 0, 0, 0, 0, 0], decodeBytes [0x11, 0x03, 0, 0, 0x02, 0, 0, 0, 0x01, 0, 0, 0],
      decodeBytes [0x40, 0x04, 0, 0, 0, 0, 0, 0, 0, 0, 0, 0], decodeBytes [0x40, 0, 0x02, 0, 0, 0, 0, 0, 0, 0, 0, 0],
      decodeBytes [0x31, 0x02, 0, 0, 0, 0, 0, 0, 0, 0, 0, 0], decodeBytes [0x20, 0x01, 0x80, 0x02, 0, 0, 0, 0, 0, 0, 0, 0]] =
      List.replicate 8 none := by decide

/-- The table word of DITHER.U is a word of DITHER.T, which is listed before it (R83). -/
theorem test_table_words :
    decodeTableWord 32 0x00010040 = some (.encodeLarge .normal) ∧ decodeTableWord 96 0x20 = some (.ditherT 0 false) ∧
      decodeTableWord 96 0x111 = some (.resampleA .src 0) ∧ decodeTableWord 96 0x04 = none := by decide

/-- After reset the block runs the word that is presented (V49: ENCODE of a nil bitmap). -/
theorem test_fetched_word_runs :
    response (step (State.reset.withFetchWord 96 0x40)) = err .invalidInput ∧
      response (step (State.reset.withFetchWord 96 0x0500000000_00000030)) = ok 0 ∧
      response (step (State.reset.withFetchWord 96 0xFF)) = err .illegalCommand := by decide

/-! ## Results of one step -/

/-- V12. -/
theorem test_srcDef : response (exec (.srcDef .rgb888 4 2) base) = ok 24 := by decide
/-- 00_scope.md R13 with a capacity of 23 bytes: one byte too few. -/
theorem test_srcDef_over_capacity :
    response (exec (.srcDef .rgb888 4 2) { base with params := { base.params with srcCap := some 23 } }) =
      err .capacityExceeded := by decide
/-- V58's stride, and the profile. -/
theorem test_rdcsr : response (exec (.rdcsr .bmpStride) (withBmp 10 3 [])) = ok 2 ∧
    response (exec (.rdcsr .profMaxBuf) base) = ok 65535 := by decide
/-- V19b. -/
theorem test_gray_colour :
    let r := exec .gray (withSrc .rgb888 4 1 [0xFF, 0, 0, 0, 0xFF, 0, 0, 0, 0xFF, 0xFF, 0xFF, 0xFF])
    response r = ok 0x0000000100000004 ∧ after .gray r = some [0x4C, 0x96, 0x1D, 0xFF] := by decide
/-- V19c. -/
theorem test_gray_identity :
    after .gray (exec .gray (withSrc .gray8 3 1 [0x00, 0x80, 0xFF])) = some [0x00, 0x80, 0xFF] := by decide
/-- V33. -/
theorem test_resampleX :
    let r := exec (.resampleX .gray 2 1) (withGray 3 2 [0, 255, 255, 0, 1, 2])
    response r = ok 0x0000000100000002 ∧ after .gray r = some [0x20, 0x80] := by decide +kernel
/-- V34: three channels. -/
theorem test_resampleX_colour :
    let r := exec (.resampleX .src 2 1) (withSrc .rgb888 4 1 [0xFF, 0, 0, 0, 0xFF, 0, 0, 0, 0xFF, 0xFF, 0xFF, 0xFF])
    after .src r = some [0x80, 0x80, 0x00, 0x80, 0x80, 0xFF] := by decide +kernel
/-- V30. -/
theorem test_resampleA :
    let r := exec (.resampleA .gray 2) (withGray 4 2 [10, 20, 30, 40, 50, 60, 70, 80])
    response r = ok 0x0000000100000002 ∧ after .gray r = some [35, 55] := by decide +kernel
/-- V37: a wider target passes through. -/
theorem test_resampleA_passes_through :
    let r := exec (.resampleA .gray 9) (withGray 4 2 [10, 20, 30, 40, 50, 60, 70, 80])
    response r = ok 0x0000000200000004 ∧ after .gray r = some [10, 20, 30, 40, 50, 60, 70, 80] := by decide +kernel
/-- V20. -/
theorem test_ditherT :
    let r := exec (.ditherT 128 false) (withGray 4 2 [10, 100, 150, 250, 60, 128, 129, 200])
    response r = ok 0x0000000200000004 ∧ after .bmp r = some [0xC0, 0xC0] := by decide +kernel
/-- V21. -/
theorem test_ditherFs :
    after .bmp (exec (.ditherFs 128 false) (withGray 4 2 [10, 100, 150, 250, 60, 128, 129, 200])) = some [0xC0, 0xA0] := by
  decide +kernel
/-- V25: a floored division would decide otherwise; and V24: a cell below 0 and one above 255. -/
theorem test_ditherFs_rounding :
    after .bmp (exec (.ditherFs 128 false) (withGray 2 2 [240, 128, 0, 0])) = some [0x40, 0xC0] ∧
      after .bmp (exec (.ditherFs 255 false) (withGray 4 2 [0, 1, 254, 255, 0, 1, 254, 255])) = some [0xE0, 0xC0] := by
  decide +kernel
/-- V26. -/
theorem test_ditherAtk :
    after .bmp (exec (.ditherAtk 128 false) (withGray 4 1 [100, 100, 100, 100])) = some [0xE0] := by decide +kernel
/-- V26b. -/
theorem test_ditherAtk_two_rows_down :
    after .bmp (exec (.ditherAtk 128 false) (withGray 3 3 (List.replicate 9 100))) = some [0xE0, 0x80, 0xE0] := by
  decide +kernel
/-- V28. -/
theorem test_ditherU :
    response (exec (.ditherU 7 128 false) (withGray 8 1 [0, 255, 0, 255, 0, 255, 0, 255])) = err .unsupportedDitherMode ∧
      after .bmp (exec (.ditherU 7 128 true) (withGray 8 1 [0, 255, 0, 255, 0, 255, 0, 255])) = some [0xAA] := by
  decide +kernel
/-- V50. -/
theorem test_bmpNew : response (exec (.bmpNew 10 3) base) = ok 6 ∧
    after .bmp (exec (.bmpNew 10 3) base) = some [0, 0, 0, 0, 0, 0] := by decide
/-- V54, V55. -/
theorem test_setPixel :
    after .bmp (exec (.setPixel 8 1 true) (withBmp 10 3 [0x80, 0, 0x01, 0, 0, 0x40])) =
        some [0x80, 0, 0x01, 0x80, 0, 0x40] ∧
      after .bmp (exec (.setPixel 7 1 false) (withBmp 10 3 [0x80, 0, 0x01, 0x80, 0, 0x40])) =
        some [0x80, 0, 0, 0x80, 0, 0x40] := by decide
/-- V59: the fatal stop, BMP as it was. -/
theorem test_setPixel_out_of_range :
    exec (.setPixel 10 0 true) (withBmp 10 3 [0x80]) =
      .fault (.fatalStop { withBmp 10 3 [0x80] with fatal := true, fatalCause := 1 }) := rfl
/-- V56, V57. -/
theorem test_getPixel :
    response (exec (.getPixel 9 2) (withBmp 10 3 [0x80, 0, 0, 0x80, 0, 0x40])) = ok 1 ∧
      response (exec (.getPixel 8 2) (withBmp 10 3 [0x80, 0, 0, 0x80, 0, 0x40])) = ok 0 := by decide
/-- V58. -/
theorem test_rasterBytes : response (exec .rasterBytes (withBmp 10 3 [])) = ok 6 := by decide
/-- V40. -/
theorem test_encodeStd :
    let r := exec (.encodeStd .doubleWidth) (withBmp 10 3 [0x80, 0, 0, 0x80, 0, 0x40])
    response r = ok 14 ∧
      after .out r = some [0x1D, 0x76, 0x30, 1, 2, 0, 3, 0, 0x80, 0, 0, 0x80, 0, 0x40] := by decide
/-- V8: the buffer of the device, not the field width. -/
theorem test_encodeStd_buffer_overflow :
    response (exec (.encodeStd .normal) (withBmp 65536 8192 [])) = err .bufferOverflow := by decide
/-- V49d's framing on a 16x1 bitmap, with the tag `AB CD`. -/
theorem test_encodeLarge :
    let r := exec (.encodeLarge .normal) (withBmp 16 1 [0xFF, 0xFF])
    response r = ok 13 ∧ after .out r = some [0xAB, 0xCD, 0, 2, 0, 0, 0, 1, 0, 0, 0, 0xFF, 0xFF] := by decide
/-- V47. -/
theorem test_encodeLarge_buffer_overflow :
    response (exec (.encodeLarge .doubleWidth) (withBmp 8 65536 [])) = err .bufferOverflow := by decide

/-- P3 line 13 through the step, and R98. -/
theorem test_default_threshold_and_text :
    defaultThreshold = 128 ∧ assemblerText (.ditherU 9 128 true) = "DITHER.U 9, 128, BE" ∧
      assemblerText (.resampleA .src 2) = "RESAMPLE.A SRC, 2" := by decide +kernel

/-! ## Witnesses: for every obligation with hypotheses, a state and operands that meet them together; where a statement has
several clauses over one input, one for each at a boundary value -/

/-- The image of V20. -/
def imageA : State := withGray 4 2 [10, 100, 150, 250, 60, 128, 129, 200]

/-- The bitmap of V55, 10x3: six padding bits in every row. -/
def bitmapA : State := withBmp 10 3 [0x80, 0, 0, 0x80, 0, 0x40]

/-- `s` with one host action pending. -/
def pending (a : HostAction) (s : State) : State := { s with host := [a] }

theorem bitmapA_inv (host : List HostAction) : ({ bitmapA with host := host } : State).Inv where
  memories := ⟨rfl, rfl, rfl, rfl⟩
  fit := ⟨rfl, rfl, rfl, rfl⟩
  stride := fun _ => (by decide : bitmapA.bmp.stride.toNat = strideOf bitmapA.bmp.w.toNat)
  padding := fun _ => by
    have key : ∀ y < 3, ∀ x < 16, 10 ≤ x → bitmapA.pixel x y = false := by decide
    exact fun x y hx hx' hy => key y hy x hx' hx
  cause := ⟨fun _ => rfl, fun h => by cases h⟩
  params := (by decide : 11 ≤ bitmapA.params.accBits)

theorem witness_StepRunsThePresentedCommand : ∃ (s : State) (d : Descriptor) (rest : List HostAction) (i : Instr),
    s.fatal = false ∧ s.host = .command d :: rest ∧ decode d = .ok i :=
  ⟨pending (.command 0x33) bitmapA, 0x33, [], .rasterBytes, rfl, rfl, rfl⟩

/-- An opcode of no row; a reserved bit; the first reserved CSR number. -/
theorem witness_IllegalDescriptorAnswersIllegalCommand :
    (0x03#96).extractLsb' 0 8 ∉ [0x01#8, 0x02#8, 0x10#8, 0x11#8, 0x20#8, 0x30#8, 0x31#8, 0x32#8, 0x33#8, 0x40#8] ∧
    (∀ r ∈ opcodeTable, 0x100000010#96 &&& r.mask.descriptor ≠ r.pattern.descriptor) ∧
    ((0x0202#96).extractLsb' 0 8 = 0x02#8 ∧ ∀ n : Csr, n.number ≠ (0x0202#96).extractLsb' 8 8) :=
  ⟨by decide, by decide, by decide, fun n => by cases n <;> decide⟩

/-- A pending command, write and read. -/
theorem witness_HaltedBlockAcceptsNothing : ∀ a : HostAction, ∃ s : State, s.fatal = true ∧ s.host = [a] :=
  fun a => ⟨pending a { bitmapA with fatal := true, fatalCause := 1 }, rfl, rfl⟩

/-- The write ends at the size exactly. -/
theorem witness_HostWriteStoresItsBytes : ∃ s : State, s.fatal = false ∧ s.host = [.write .src 1 [7, 8]] ∧
    s.src.valid = true ∧ 1 + [7#8, 8#8].length = s.src.w.toNat * s.src.h.toNat * channels s.src.fmt :=
  ⟨pending (.write .src 1 [7, 8]) (withSrc .gray8 3 1 []), rfl, rfl, rfl, rfl⟩

/-- The read ends at the size exactly; each readable space. -/
theorem witness_HostReadReturnsTheBytes : ∃ s : State, s.fatal = false ∧ s.host = [.read .bmp 4 2] ∧
    readableBuffer .bmp = some .bmp ∧ readableBuffer .src = some .src ∧ readableBuffer .gray = some .gray ∧
    readableBuffer .out = some .out ∧ s.memoriesCanonical ∧ s.validBit .bmp = true ∧ 4 + 2 = s.sizeOf .bmp :=
  ⟨pending (.read .bmp 4 2) bitmapA, rfl, rfl, rfl, rfl, rfl, rfl, (bitmapA_inv _).memories, rfl, rfl⟩

/-- A space that cannot be written, a nil buffer, the first offset at the size; the space ACC; a halted block. -/
theorem witness_HostAccessOutsideTheTableIsRefused :
    (∃ s : State, s.host = [.write .gray 0 [1]] ∧ (Space.gray ≠ .src)) ∧
    (∃ s : State, s.host = [.write .src 0 [1]] ∧ s.src.valid = false) ∧
    (∃ s : State, s.host = [.write .src 2 [1, 2]] ∧ s.src.valid = true ∧
      ∃ k, k < [1#8, 2#8].length ∧ s.src.w.toNat * s.src.h.toNat * channels s.src.fmt ≤ 2 + k) ∧
    (∃ s : State, s.host = [.read .acc 0 1]) ∧
    (∃ s : State, s.host = [.read .bmp 6 1] ∧ s.validBit .bmp = true ∧ ∃ k, k < 1 ∧ s.sizeOf .bmp ≤ 6 + k) ∧
    ∃ s : State, s.host = [.read .bmp 0 1] ∧ s.fatal = true :=
  ⟨⟨pending (.write .gray 0 [1]) imageA, rfl, by decide⟩, ⟨pending (.write .src 0 [1]) base, rfl, rfl⟩,
    ⟨pending (.write .src 2 [1, 2]) (withSrc .gray8 3 1 []), rfl, rfl, 1, by decide, by decide⟩,
    ⟨pending (.read .acc 0 1) base, rfl⟩,
    ⟨pending (.read .bmp 6 1) bitmapA, rfl, rfl, 0, by decide, by decide⟩,
    ⟨pending (.read .bmp 0 1) { bitmapA with fatal := true }, rfl, rfl⟩⟩

/-- The hypotheses of StepKeepsTheInvariant, BitmapContentsMatchItsDimensions, PaddingBitsStayZero (the last row, a width that
is no multiple of 8) and ValidBitsStayOne together. -/
theorem witness_StepKeepsTheInvariant : ∃ s t : State, s.Inv ∧ step s = .next t ∧ t.bmp.valid = true ∧
    t.bmp.w.toNat % 8 ≠ 0 ∧ 2 < t.bmp.h.toNat ∧ s.validBit .bmp = true :=
  ⟨_, _, bitmapA_inv [presented [0x31, 1, 0, 0, 9, 0, 0, 0, 2, 0, 0, 0]], rfl, rfl, by decide, by decide, rfl⟩

/-- The same of a bitmap of height 0. -/
theorem witness_BitmapContentsMatchItsDimensions_empty : ∃ s t : State, s.Inv ∧ step s = .next t ∧ t.bmp.valid = true ∧
    t.bmp.w ≠ 0 ∧ t.bmp.h = 0 :=
  ⟨_, _, bitmapA_inv [presented [0x30, 0, 0, 0, 9, 0, 0, 0, 0, 0, 0, 0]], rfl, rfl, by decide, rfl⟩

theorem witness_ErrorsChangeNothing : ∃ t : State, exec .gray base = .next t ∧
    t.observed = base.observed ++ [.response .invalidInput 0] ∧ Code.invalidInput ≠ .ok := ⟨_, rfl, rfl, by decide⟩

theorem witness_EveryAnsweredCommandGivesOneResponse : ∃ t : State, exec .rasterBytes bitmapA = .next t := ⟨_, rfl⟩

/-- Each buffer changed by a writer. -/
theorem witness_BuffersChangeOnlyByTheirWriters :
    (∃ t : State, exec (.srcDef .gray8 1 1) base = .next t ∧ t.src ≠ base.src) ∧
    (∃ t : State, exec (.resampleX .gray 2 1) imageA = .next t ∧ t.gray ≠ imageA.gray) ∧
    (∃ t : State, exec (.setPixel 1 0 true) bitmapA = .next t ∧ t.bmp ≠ bitmapA.bmp) ∧
    (∃ t : State, exec (.encodeStd .normal) bitmapA = .next t ∧ t.out ≠ bitmapA.out) ∧
    ∃ t : State, exec (.ditherT 128 false) imageA = .next t ∧ t.acc ≠ imageA.acc :=
  ⟨⟨_, rfl, by decide⟩, ⟨_, rfl, by decide⟩, ⟨_, rfl, by decide⟩, ⟨_, rfl, by decide⟩, ⟨_, rfl, by decide⟩⟩

theorem witness_ProfileParametersAndFatalAreKept : ∃ t : State,
    step (pending (.command 0x10) imageA) = .next t := ⟨_, rfl⟩

/-- Both commands, at the first column and the first row outside. -/
theorem witness_FatalStopExactlyOutsideTheBitmap :
    bitmapA.bmp.valid = true ∧ bitmapA.bmp.w.toNat = (10 : Word).toNat ∧ bitmapA.bmp.h.toNat = (3 : Word).toNat ∧
    exec (.setPixel 10 0 true) bitmapA = .fault (.fatalStop { bitmapA with fatal := true, fatalCause := 1 }) ∧
    exec (.getPixel 0 3) bitmapA = .fault (.fatalStop { bitmapA with fatal := true, fatalCause := 1 }) :=
  ⟨rfl, rfl, rfl, rfl, rfl⟩

theorem witness_OnlyEncodeWithoutGraphicsIsRefused : ∃ s : State, s.profile.gfx = false ∧
    exec (.encodeLarge .normal) s = .refused .graphicsUnsupported :=
  ⟨{ bitmapA with profile := ⟨65535, false⟩ }, rfl, rfl⟩

/-- Nil, empty, target width 0; a command that is not ENCODE with `PROF_GFX = 0`; ENCODE with `PROF_GFX = 1`. -/
theorem witness_InvalidInputExactly :
    let mute := fun s : State => { s with profile := ⟨65535, false⟩ }
    (¬IsEncode .gray ∧ Answers .gray (mute base) .invalidInput ∧
      Answers .gray (mute (withSrc .gray8 0 5 [])) .invalidInput ∧
      Answers (.resampleX .gray 0 1) (mute imageA) .invalidInput) ∧
    (IsEncode (.encodeStd .normal) ∧ base.profile.gfx = true ∧ Answers (.encodeStd .normal) base .invalidInput) :=
  ⟨⟨fun ⟨_, h⟩ => h.elim (fun e => by cases e) (fun e => by cases e), ⟨_, _, rfl, rfl⟩, ⟨_, _, rfl, rfl⟩, _, _, rfl, rfl⟩,
    ⟨_, .inl rfl⟩, rfl, _, _, rfl, rfl⟩

theorem witness_UnsupportedModeFallsBackOnlyOnOptIn : imageA.grayHoldsImage ∧
    Answers (.ditherU 3 128 false) imageA .unsupportedDitherMode :=
  ⟨⟨rfl, by decide, by decide⟩, _, _, rfl, rfl⟩

/-- Width 0; a byte width of 65536; a payload of 65536 bytes on a device of 65535. -/
theorem witness_EncoderErrorsExactly : base.profile.gfx = true ∧
    Answers (.encodeStd .normal) (withBmp 0 5 []) .emptyImage ∧
    Answers (.encodeLarge .normal) (withBmp 5 0 []) .emptyImage ∧
    Answers (.encodeStd .normal) (withBmp 524281 1 []) .dimensionOutOfRange ∧
    Answers (.encodeStd .normal) (withBmp 16 32768 []) .bufferOverflow ∧
    Answers (.encodeLarge .normal) (withBmp 8 65536 []) .bufferOverflow :=
  ⟨rfl, ⟨_, _, rfl, rfl⟩, ⟨_, _, rfl, rfl⟩, ⟨_, _, rfl, rfl⟩, ⟨_, _, rfl, rfl⟩, _, _, rfl, rfl⟩

/-- The widest bitmap has the byte width 536870912 exactly. -/
theorem witness_LargeFramingHoldsEveryBitmap : (withBmp 4294967295 4294967295 []).strideMatches ∧
    (withBmp 4294967295 4294967295 []).bmp.valid = true ∧
    (withBmp 4294967295 4294967295 []).bmp.stride.toNat = 536870912 ∧
    Answers (.encodeStd .normal) (withBmp 4294967295 1 []) .dimensionOutOfRange :=
  ⟨fun _ => rfl, rfl, rfl, _, _, rfl, rfl⟩

/-- A capacity one byte too small is not fitted. -/
theorem not_fits {n c : Nat} (h : c < n) : ¬Fits n (some c) := fun f => Nat.not_le_of_lt h (f c rfl)

/-- Each capacity one byte too small, as a condition and as an answer. -/
theorem witness_CapacityExceededExactly :
    let capped := fun (s : State) (c : Option Nat) =>
      { s with params := { s.params with srcCap := c, grayCap := c, bmpCap := c, outCap := c } }
    Answers (.srcDef .gray8 4 1) (capped base (some 3)) .capacityExceeded ∧
    Answers .gray (capped (withSrc .gray8 4 1 [1, 2, 3, 4]) (some 3)) .capacityExceeded ∧
    Answers (.resampleX .gray 3 2) (capped imageA (some 5)) .capacityExceeded ∧
    Answers (.ditherT 128 false) (capped imageA (some 1)) .capacityExceeded ∧
    Answers (.bmpNew 10 3) (capped base (some 5)) .capacityExceeded ∧
    Answers (.encodeStd .normal) (capped bitmapA (some 13)) .capacityExceeded ∧
    Answers (.encodeLarge .normal) (capped bitmapA (some 16)) .capacityExceeded ∧
    CapacityExceededCondition (capped imageA (some 1)) (.ditherU 9 128 true) ∧
    CapacityExceededCondition (capped bitmapA (some 13)) (.encodeStd .normal) ∧
    base.params.srcCap = none ∧ base.params.grayCap = none ∧ base.params.bmpCap = none ∧ base.params.outCap = none :=
  ⟨⟨_, _, rfl, rfl⟩, ⟨_, _, rfl, rfl⟩, ⟨_, _, rfl, rfl⟩, ⟨_, _, rfl, rfl⟩, ⟨_, _, rfl, rfl⟩, ⟨_, _, rfl, rfl⟩,
    ⟨_, _, rfl, rfl⟩, ⟨rfl, ⟨rfl, by decide, by decide⟩, not_fits (by decide)⟩,
    ⟨rfl, rfl, by decide, by decide, by decide, by decide, by decide, not_fits (by decide)⟩, rfl, rfl, rfl, rfl⟩

theorem fits_unbounded (n : Nat) : Fits n none := fun _ h => by cases h

/-- A capacity used up exactly; a size that fits the response, and one of at least `2 ^ 64` bytes that does not. -/
theorem witness_SrcDefDeclaresTheImage : Fits 24 (some 24) ∧ Fits (4294967295 * 4294967295 * 3) base.params.srcCap ∧
    (4 * 2 * 3 < 2 ^ 64) ∧ ¬(4294967295 * 4294967295 * 3 < 2 ^ 64) :=
  ⟨fun _ h => by cases h; exact Nat.le_refl _, fits_unbounded _, by decide, by decide⟩

/-- A valid and a nil buffer. -/
theorem witness_RdcsrReadsTheRegister : bitmapA.bmp.valid = true ∧ bitmapA.src.valid = false ∧
    imageA.gray.valid = true ∧ imageA.bmp.valid = false ∧ (withSrc .gray8 1 1 []).src.valid = true :=
  ⟨rfl, rfl, rfl, rfl, rfl⟩

/-- Both formats. -/
theorem witness_GrayConvertsEveryPixel :
    let s := withSrc .rgb888 2 1 [1, 2, 3, 4, 5, 6]
    let u := withSrc .gray8 2 1 [1, 2]
    s.memoriesCanonical ∧ s.srcHoldsImage ∧ Fits (s.src.w.toNat * s.src.h.toNat) s.params.grayCap ∧
      u.memoriesCanonical ∧ u.srcHoldsImage ∧ 1 < u.src.w.toNat ∧ 0 < u.src.h.toNat :=
  ⟨⟨rfl, rfl, rfl, rfl⟩, ⟨rfl, by decide, by decide⟩, fits_unbounded _, ⟨rfl, rfl, rfl, rfl⟩,
    ⟨rfl, by decide, by decide⟩, by decide, by decide⟩

/-- The target width is the source width. -/
theorem witness_ResamplePassesThroughWideTargets : imageA.holdsImage .gray ∧ (4 : Word) ≠ 0 ∧
    (imageA.imageW .gray).toNat ≤ (4 : Word).toNat := ⟨⟨rfl, by decide, by decide⟩, by decide, by decide⟩

/-- Both forms on both buffers, the target one column narrower than the source; the hypotheses of
BilinearSamplesFollowTheFormula as well. -/
theorem witness_ResampleReplacesTheBuffer :
    let s := withSrc .rgb888 2 1 [1, 2, 3, 4, 5, 6]
    ResampleTo imageA .gray 3 5 (.resampleX .gray 3 5) ∧ ResampleTo imageA .gray 3 2 (.resampleA .gray 3) ∧
      imageA.holdsImage .gray ∧ imageA.memoriesCanonical ∧ (3 : Word) ≠ 0 ∧
      (3 : Word).toNat < (imageA.imageW .gray).toNat ∧ Fits (3 * 5 * 1) (imageA.imageCap .gray) ∧
      imageA.params.filter = .bilinear ∧
      ResampleTo s .src 1 1 (.resampleX .src 1 1) ∧ ResampleTo s .src 1 1 (.resampleA .src 1) ∧ s.holdsImage .src ∧
      s.memoriesCanonical ∧ (1 : Word).toNat < (s.imageW .src).toNat ∧ Fits (1 * 1 * 3) (s.imageCap .src) ∧
      ∃ t, exec (.resampleX .src 1 1) s = .next t :=
  ⟨.inl ⟨5, rfl, rfl⟩, .inr ⟨rfl, rfl⟩, ⟨rfl, by decide, by decide⟩, ⟨rfl, rfl, rfl, rfl⟩, by decide, by decide,
    fits_unbounded _, rfl, .inl ⟨1, rfl, rfl⟩, .inr ⟨rfl, rfl⟩, ⟨rfl, by decide, by decide⟩, ⟨rfl, rfl, rfl, rfl⟩,
    by decide, fits_unbounded _, _, rfl⟩

/-- The samples 1 and 2 are the least and the greatest that the only pixel reads. -/
theorem witness_BilinearPropertiesHold : 0 < 1 ∧ 1 < 2 ∧ (∀ x y,
    x = (axisTap 0 2 1).a ∨ x = (axisTap 0 2 1).b → y = (axisTap 0 1 1).a ∨ y = (axisTap 0 1 1).b →
      1 ≤ sampleAt [1, 2] 2 1 0 x y ∧ sampleAt [1, 2] 2 1 0 x y ≤ 2) := by
  refine ⟨by decide, by decide, fun x y hx hy => ?_⟩
  rcases hx with rfl | rfl <;> rcases hy with rfl | rfl <;> decide

/-- Both forms, both buffers: height 0 supplied, and the aspect height 0 of V39. -/
theorem witness_EmptyResampleResultIsRejectedLater :
    let s := withSrc .gray8 2 1 [1, 2]
    let u := withGray 1000 1 []
    ResampleTo s .src 1 0 (.resampleX .src 1 0) ∧ s.holdsImage .src ∧ (1 : Word) ≠ 0 ∧
      (1 : Word).toNat < (s.imageW .src).toNat ∧
      ResampleTo u .gray 100 0 (.resampleA .gray 100) ∧ u.holdsImage .gray ∧
      (100 : Word).toNat < (u.imageW .gray).toNat :=
  ⟨.inl ⟨0, rfl, rfl⟩, ⟨rfl, by decide, by decide⟩, by decide, by decide, .inr ⟨rfl, rfl⟩, ⟨rfl, by decide, by decide⟩,
    by decide⟩

/-- The hypotheses of ThresholdDecidesEachPixel, FloydSteinbergGathersItsErrors and AtkinsonGathersItsErrors. -/
theorem witness_DitherStatements : imageA.memoriesCanonical ∧ imageA.grayHoldsImage ∧
    Fits ((imageA.gray.w.toNat + 7) / 8 * imageA.gray.h.toNat) imageA.params.bmpCap ∧
    3 < imageA.gray.w.toNat ∧ 1 < imageA.gray.h.toNat :=
  ⟨⟨rfl, rfl, rfl, rfl⟩, ⟨rfl, by decide, by decide⟩, fits_unbounded _, by decide, by decide⟩

/-- The hypotheses of SharesOutsideTheImageAreDropped and AtkinsonConservesError at the last pixel, and of
AccumulatorStaysInItsRange. -/
theorem witness_DiffusionStatements : ([1, 2, 3, 4, 5, 6] : List Int).length = 3 * 2 ∧ 2 < 3 ∧ 1 < 2 ∧
    ([1, 2, 3, 4, 5, 6] : List Byte).length = 3 * 2 ∧ 5 < 3 * 2 ∧ ((0 : Int), (0 : Int)) ∉ atkinsonNeighbours 2 1 := by
  decide

/-- Two states with one GRAY and `BMP_CAP`, that differ elsewhere: an image, where the answer is `OK`, and none, where it is an
error. -/
theorem witness_DitherDependsOnGrayAlone : IsDither (.ditherAtk 128 true) ∧
    ({ imageA with bmp := bitmapA.bmp } : State).gray = imageA.gray ∧
    ({ imageA with bmp := bitmapA.bmp } : State).params.bmpCap = imageA.params.bmpCap ∧
    Answers (.ditherAtk 128 true) imageA .ok ∧ bitmapA.gray = base.gray ∧
    bitmapA.params.bmpCap = base.params.bmpCap ∧ Answers (.ditherAtk 128 true) base .invalidInput :=
  ⟨.inr (.inr (.inl ⟨_, _, rfl⟩)), rfl, rfl, ⟨_, _, rfl, rfl⟩, rfl, rfl, _, _, rfl, rfl⟩

/-- A capacity used up exactly. -/
theorem witness_BmpNewIsAllWhite : Fits (((10 : Word).toNat + 7) / 8 * (3 : Word).toNat) (some 6) :=
  fun _ h => by cases h; decide

/-- The hypotheses of SetPixelChangesOneBit, GetPixelReadsOneBit and RasterBytesGivesTheLength at the last pixel, and a padding
bit beside it. -/
theorem witness_PixelStatements : bitmapA.Inv ∧ bitmapA.bmp.valid = true ∧ (9 : Word).toNat < bitmapA.bmp.w.toNat ∧
    (2 : Word).toNat < bitmapA.bmp.h.toNat ∧ 15 < 8 * bitmapA.bmp.stride.toNat ∧ ¬(15 = (9 : Word).toNat ∧ 2 = (2 : Word).toNat) ∧
    bitmapA.pixel (9 : Word).toNat (2 : Word).toNat = true :=
  ⟨bitmapA_inv [], rfl, by decide, by decide, by decide, by decide, by decide⟩

theorem witness_PixelsRoundTrip : Fits (((10 : Word).toNat + 7) / 8 * (3 : Word).toNat) base.params.bmpCap ∧
    ∀ o ∈ ([(9, 2, true), (7, 1, true), (7, 1, false)] : List (Word × Word × Bool)),
      o.1.toNat < (10 : Word).toNat ∧ o.2.1.toNat < (3 : Word).toNat := ⟨fits_unbounded _, by simp⟩

/-- The hypotheses of both ENCODE statements; the widest and the highest bitmap of ENCODE.STD (V44). -/
theorem witness_EncodeStatements :
    let s := withBmp 524280 1 []
    s.profile.gfx = true ∧ s.bmp.valid = true ∧ s.bmp.stride.toNat = 65535 ∧ s.bmp.h.toNat = 1 ∧
      s.bmp.stride.toNat * s.bmp.h.toNat = s.profile.maxBuf.toNat ∧
      Fits (s.params.tagStd.bytes.length + 5 + 65535) s.params.outCap ∧
      Fits (s.params.tagLarge.bytes.length + 9 + 65535) s.params.outCap ∧
      (withBmp 8 65535 []).bmp.h.toNat = 65535 ∧ (withBmp 8 65535 []).bmp.stride.toNat = 1 :=
  ⟨rfl, rfl, rfl, rfl, rfl, fits_unbounded _, fits_unbounded _, rfl, rfl⟩

theorem witness_RasterCommandIsReadBack : 255 < 256 ^ 1 ∧ 0 < 256 ^ 1 ∧ ([] : List Byte).length = 255 * 0 := by decide

/-- DITHER.U's row, which only a descriptor that the three rows before it leave alone selects. -/
theorem witness_RowsAreSelectedByMaskAndMatch : ∃ (before after : List Row) (r : Row),
    opcodeTable = before ++ r :: after ∧ r.mnemonic = "DITHER.U" ∧
    0x0320#96 &&& r.mask.descriptor = r.pattern.descriptor ∧
    ∀ q ∈ before, 0x0320#96 &&& q.mask.descriptor ≠ q.pattern.descriptor :=
  ⟨opcodeTable.take 8, opcodeTable.drop 9, Row.ditherU, rfl, rfl, by decide, by decide⟩

theorem witness_DecodeOfEncodeIsTheCommand : (Instr.ditherU 3 0 false).wellFormed = true := rfl

theorem witness_EncodeOfDecodeIsTheDescriptor : decode 0x0320#96 = .ok (.ditherU 3 0 false) := rfl

end Sys2Proof.Tests
end

section
/-! PROOFS, family 10_state.md. First what a step can do and what keeps the invariant, then the obligations. -/

namespace Sys2Proof.Machine

/-! ## What a step that leads on can be -/

/-- SRC with the host's bytes stored in it (20_memory.md R61). -/
def State.written (s : State) (a : Nat) (bs : List Byte) : State :=
  { s with src := { s.src with mem := s.src.mem.writeBytes Buffer.src.unlisted a bs } }

/-- The moves of a block that answers a next state (70_reset_and_hazards.md R273). -/
inductive Move (s t : State) : Prop where
  | idle (pending : s.host = []) (result : t = s)
  | command (d : Descriptor) (rest : List HostAction) (i : Instr) (pending : s.host = .command d :: rest)
      (decoded : decode d = .ok i) (answer : exec i (s.afterTaking rest) = .next t)
  | illegal (d : Descriptor) (rest : List HostAction) (e : Illegal) (pending : s.host = .command d :: rest)
      (decoded : decode d = .error e) (result : t = (s.afterTaking rest).illegalCommand)
  | write (a : Nat) (bs : List Byte) (rest : List HostAction) (pending : s.host = .write .src a bs :: rest)
      (valid : s.src.valid = true) (inside : a + bs.length ≤ s.src.size) (result : t = (s.afterTaking rest).written a bs)
  | read (sp : Space) (b : Buffer) (a n : Nat) (rest : List HostAction) (pending : s.host = .read sp a n :: rest)
      (space : readableBuffer sp = some b) (valid : s.validBit b = true) (inside : a + n ≤ s.sizeOf b)
      (result : t = (s.afterTaking rest).observe (.bytes (s.bytesAt b a n)))

variable {s t : State} {rest : List HostAction}

theorem step_of_fatal (h : s.fatal = true) : step s = s.haltedOutcome := by simp [step, h]

theorem step_of_idle (hf : s.fatal = false) (h : s.host = []) : step s = .next s := by simp [step, hf, h]

theorem step_of_command {d : Descriptor} (hf : s.fatal = false) (h : s.host = .command d :: rest) :
    step s = runDescriptor d (s.afterTaking rest) := by simp [step, hf, h]

theorem step_of_write {sp : Space} {a : Nat} {bs : List Byte} (hf : s.fatal = false)
    (h : s.host = .write sp a bs :: rest) : step s = (s.afterTaking rest).hostWrite sp a bs := by simp [step, hf, h]

theorem step_of_read {sp : Space} {a n : Nat} (hf : s.fatal = false) (h : s.host = .read sp a n :: rest) :
    step s = (s.afterTaking rest).hostRead sp a n := by simp [step, hf, h]

theorem runDescriptor_of_ok {d : Descriptor} {i : Instr} (h : decode d = .ok i) : runDescriptor d s = exec i s := by
  simp [runDescriptor, h]

theorem runDescriptor_of_error {d : Descriptor} {e : Illegal} (h : decode d = .error e) :
    runDescriptor d s = .next s.illegalCommand := by simp [runDescriptor, h]

/-- A halted block gives no next state, whatever is pending. -/
theorem haltedOutcome_ne_next : s.haltedOutcome ≠ .next t := by
  unfold State.haltedOutcome
  split <;> simp

theorem fatal_eq_false_of_step (h : step s = .next t) : s.fatal = false := by
  by_contra hf
  exact haltedOutcome_ne_next ((step_of_fatal (by simpa using hf)).symm.trans h)

/-- The host's write that is performed (20_memory.md R61). -/
theorem hostWrite_next {sp : Space} {a : Nat} {bs : List Byte} (h : s.hostWrite sp a bs = .next t) :
    sp = .src ∧ s.src.valid = true ∧ a + bs.length ≤ s.src.size ∧ t = s.written a bs := by
  cases sp with
  | src =>
    simp only [State.hostWrite] at h
    split at h
    · cases h
    next hv =>
      split at h
      · cases h
      next hsz =>
        cases h
        exact ⟨rfl, by simpa [State.isNil, State.validBit] using hv, by omega, rfl⟩
  | gray | acc | bmp | out => cases h

theorem readBuffer_next {b : Buffer} {a n : Nat} (h : s.readBuffer b a n = .next t) :
    s.validBit b = true ∧ a + n ≤ s.sizeOf b ∧ t = s.observe (.bytes (s.bytesAt b a n)) := by
  unfold State.readBuffer at h
  split at h
  · cases h
  next hv =>
    split at h
    · cases h
    next hsz =>
      cases h
      exact ⟨by simpa [State.isNil] using hv, by omega, rfl⟩

/-- The host's read that is performed (20_memory.md R61). -/
theorem hostRead_next {sp : Space} {a n : Nat} (h : s.hostRead sp a n = .next t) :
    ∃ b, readableBuffer sp = some b ∧ s.validBit b = true ∧ a + n ≤ s.sizeOf b ∧
      t = s.observe (.bytes (s.bytesAt b a n)) := by
  cases sp with
  | acc => cases h
  | src | gray | bmp | out => exact ⟨_, rfl, readBuffer_next h⟩

/-- Every step that answers a next state is one of the moves. -/
theorem step_move (h : step s = .next t) : Move s t := by
  have hf := fatal_eq_false_of_step h
  cases hh : s.host with
  | nil =>
    rw [step_of_idle hf hh] at h
    cases h
    exact .idle hh rfl
  | cons action rest =>
    cases action with
    | command d =>
      rw [step_of_command hf hh] at h
      cases hd : decode d with
      | ok i => exact .command d rest i hh hd ((runDescriptor_of_ok hd).symm.trans h)
      | error e =>
        rw [runDescriptor_of_error hd] at h
        cases h
        exact .illegal d rest e hh hd rfl
    | write sp a bs =>
      rw [step_of_write hf hh] at h
      obtain ⟨rfl, hv, hsz, ht⟩ := hostWrite_next h
      exact .write a bs rest hh hv hsz ht
    | read sp a n =>
      rw [step_of_read hf hh] at h
      obtain ⟨b, hb, hv, hsz, ht⟩ := hostRead_next h
      exact .read sp b a n rest hh hb hv hsz ht

/-! ## Bitmaps that meet the invariant -/

/-- The part of `State.Inv` that speaks of BMP (10_state.md R32, 20_memory.md R54). -/
structure BmpBuffer.Sound (b : BmpBuffer) : Prop where
  canonical : b.mem.wf Buffer.bmp.unlisted = true
  fit       : b.mem.within b.size = true
  stride    : b.valid = true → b.stride.toNat = strideOf b.w.toNat
  padding   : b.valid = true → ∀ x y : Nat, b.w.toNat ≤ x → x < 8 * b.stride.toNat → y < b.h.toNat →
    b.mem.getPixel b.stride.toNat x y = false

/-- The bitmap `w` by `h` with the bytes `m`, as BMP_NEW and DITHER leave it (44_bitmap.md R180, 43_dither.md R162). -/
def bitmapOf (w h : Word) (m : Memory) : BmpBuffer := ⟨w, h, BitVec.ofNat 32 (strideOf w.toNat), true, m⟩

theorem Memory.getPixel_nil (stride x y : Nat) : Memory.getPixel [] stride x y = false := by
  simp [Memory.getPixel, Memory.read, zeroByte]

/-- An all-white bitmap is sound. -/
theorem bitmapOf_nil_sound (w h : Word) : (bitmapOf w h []).Sound where
  canonical := rfl
  fit       := rfl
  stride    := fun _ => strideOf_toNat w
  padding   := fun _ x y _ _ _ => Memory.getPixel_nil _ x y

/-- A pixel set inside the bitmap leaves it sound: its byte lies in the contents, and it is no padding bit. -/
theorem BmpBuffer.Sound.setPixel {b : BmpBuffer} {x y : Nat} (hb : b.Sound) (hv : b.valid = true) (black : Bool)
    (hx : x < b.w.toNat) (hy : y < b.h.toNat) :
    BmpBuffer.Sound { b with mem := b.mem.setPixel b.stride.toNat x y black } := by
  have hgrid : x < 8 * b.stride.toNat := hb.stride hv ▸ lt_strideOf hx
  exact {
    canonical := Memory.wf_setPixel hb.canonical
    fit := Memory.within_setPixel hb.fit hgrid hy
    stride := hb.stride
    padding := fun _ x' y' hw hx' hy' => by
      have hne : ¬(x = x' ∧ y = y') := fun e => absurd hw (Nat.not_le_of_lt (e.1 ▸ hx))
      exact (Memory.getPixel_setPixel_of_ne hgrid hx' hne).trans (hb.padding hv x' y' hw hx' hy') }

/-- One pixel of a scan keeps the new bitmap sound. -/
theorem ditherPixel_sound {w h : Word} {d : DitherScan} {p : Nat × Nat} (mode : DitherMode) (v : Byte)
    (hd : (bitmapOf w h d.bmp).Sound) (hp : p.1 < w.toNat ∧ p.2 < h.toNat) :
    (bitmapOf w h (ditherPixel mode v w.toNat h.toNat d p).bmp).Sound := by
  have key := hd.setPixel rfl (isBlack (cellAt d.acc (p.2 * w.toNat + p.1)) v) hp.1 hp.2
  have hst : (bitmapOf w h d.bmp).stride.toNat = strideOf w.toNat := strideOf_toNat w
  rw [hst] at key
  exact key

/-- Any run of pixels inside the image keeps the new bitmap sound. -/
theorem foldl_ditherPixel_sound {w h : Word} (mode : DitherMode) (v : Byte) (ps : List (Nat × Nat)) (d : DitherScan)
    (hps : ∀ p ∈ ps, p.1 < w.toNat ∧ p.2 < h.toNat) (hd : (bitmapOf w h d.bmp).Sound) :
    (bitmapOf w h (ps.foldl (ditherPixel mode v w.toNat h.toNat) d).bmp).Sound := by
  induction ps generalizing d with
  | nil => exact hd
  | cons p ps ih =>
    obtain ⟨hp, hps⟩ := List.forall_mem_cons.mp hps
    exact ih _ hps (ditherPixel_sound mode v hd hp)

/-- The bitmap a whole scan builds is sound. -/
theorem ditherScan_sound (mode : DitherMode) (v : Byte) (w h : Word) (samples : List Byte) :
    (bitmapOf w h (ditherScan mode v w.toNat h.toNat samples).bmp).Sound :=
  foldl_ditherPixel_sound mode v _ _ (fun _ => mem_scanOrder.mp) (bitmapOf_nil_sound w h)

/-! ## What keeps the invariant -/

theorem State.Inv.bmp_sound (h : s.Inv) : s.bmp.Sound := by
  obtain ⟨-, -, canonical, -⟩ := h.memories
  obtain ⟨-, -, fit, -⟩ := h.fit
  exact ⟨canonical, fit, h.stride, h.padding⟩

/-- The run's own fields are no part of the invariant. -/
theorem State.Inv.withRun (h : s.Inv) (k : Nat) (host : List HostAction) (obs : List Observation) :
    State.Inv { s with draws := k, host := host, observed := obs } :=
  ⟨h.memories, h.fit, h.stride, h.padding, h.cause, h.params⟩

theorem State.Inv.observe (h : s.Inv) (o : Observation) : (s.observe o).Inv := h.withRun _ _ _
theorem State.Inv.respond (h : s.Inv) (d : DWord) : (s.respond d).Inv := h.observe _
theorem State.Inv.raise (h : s.Inv) (e : Code) : (s.raise e).Inv := h.observe _
theorem State.Inv.respondFree (h : s.Inv) (b : Nat) : (s.respondFree b).Inv := h.withRun _ _ _
theorem State.Inv.afterTaking (h : s.Inv) (r : List HostAction) : (s.afterTaking r).Inv := h.withRun _ _ _

theorem State.Inv.respondNat (h : s.Inv) (n : Nat) : (s.respondNat n).Inv := by
  unfold State.respondNat
  split
  · exact h.respond _
  · exact h.respondFree _

/-- SRC replaced, with any number for its draws. -/
theorem State.Inv.withSrc (h : s.Inv) {b : SrcBuffer} (hm : b.mem.wf Buffer.src.unlisted = true)
    (hf : b.mem.within b.size = true) (k : Nat) : State.Inv { s with src := b, srcEpoch := k } := by
  obtain ⟨-, gray, bmp, out⟩ := h.memories
  obtain ⟨-, grayFit, bmpFit, outFit⟩ := h.fit
  exact ⟨⟨hm, gray, bmp, out⟩, ⟨hf, grayFit, bmpFit, outFit⟩, h.stride, h.padding, h.cause, h.params⟩

theorem State.Inv.withGray (h : s.Inv) {b : GrayBuffer} (hm : b.mem.wf Buffer.gray.unlisted = true)
    (hf : b.mem.within b.size = true) : State.Inv { s with gray := b } := by
  obtain ⟨src, -, bmp, out⟩ := h.memories
  obtain ⟨srcFit, -, bmpFit, outFit⟩ := h.fit
  exact ⟨⟨src, hm, bmp, out⟩, ⟨srcFit, hf, bmpFit, outFit⟩, h.stride, h.padding, h.cause, h.params⟩

/-- BMP replaced by a sound bitmap, with any accumulator. -/
theorem State.Inv.withBmp (h : s.Inv) {b : BmpBuffer} (hb : b.Sound) (cells : List Int) :
    State.Inv { s with bmp := b, acc := cells } := by
  obtain ⟨src, gray, -, out⟩ := h.memories
  obtain ⟨srcFit, grayFit, -, outFit⟩ := h.fit
  exact ⟨⟨src, gray, hb.canonical, out⟩, ⟨srcFit, grayFit, hb.fit, outFit⟩, hb.stride, hb.padding, h.cause, h.params⟩

theorem State.Inv.withOut (h : s.Inv) {b : OutBuffer} (hm : b.mem.wf Buffer.out.unlisted = true)
    (hf : b.mem.within b.size = true) : State.Inv { s with out := b } := by
  obtain ⟨src, gray, bmp, -⟩ := h.memories
  obtain ⟨srcFit, grayFit, bmpFit, -⟩ := h.fit
  exact ⟨⟨src, gray, bmp, hm⟩, ⟨srcFit, grayFit, bmpFit, hf⟩, h.stride, h.padding, h.cause, h.params⟩

/-- A whole buffer built of `n` bytes lists no byte at or past `n`. -/
theorem Memory.within_ofBytes_length {u : Option Byte} {vs : List Byte} {n : Nat} (h : vs.length = n) :
    (Memory.ofBytes u 0 vs).within n = true := Memory.within_ofBytes (by omega)

theorem State.Inv.written (h : s.Inv) {a : Nat} {bs : List Byte} (hin : a + bs.length ≤ s.src.size) :
    (s.written a bs).Inv := by
  obtain ⟨canonical, -, -, -⟩ := h.memories
  obtain ⟨fit, -, -, -⟩ := h.fit
  exact h.withSrc (Memory.wf_writeBytes canonical) (Memory.within_writeBytes fit hin) s.srcEpoch

theorem State.Inv.defineSource (h : s.Inv) (fmt : PixelFormat) (w ht : Word) : (s.defineSource fmt w ht).Inv :=
  h.withSrc rfl rfl _

theorem State.Inv.normalized (h : s.Inv) : s.normalized.Inv :=
  h.withGray Memory.wf_ofBytes (Memory.within_ofBytes_length (graySamples_length ..))

/-- An image replaced by as many samples as dimensions of 32 bits ask for (42_resampler.md R132). -/
theorem State.Inv.replaceImage (h : s.Inv) (buf : ImageBuffer) {w ht : Nat} {samples : List Byte} (hw : w < 2 ^ 32)
    (hh : ht < 2 ^ 32) (hl : samples.length = w * ht * s.imageChannels buf) :
    (s.replaceImage w ht samples buf).Inv := by
  have ew : (BitVec.ofNat 32 w).toNat = w := Nat.mod_eq_of_lt hw
  have eh : (BitVec.ofNat 32 ht).toNat = ht := Nat.mod_eq_of_lt hh
  cases buf with
  | src =>
    refine h.withSrc Memory.wf_ofBytes (Memory.within_ofBytes_length ?_) s.srcEpoch
    rw [SrcBuffer.size, ew, eh]
    exact hl
  | gray =>
    refine h.withGray Memory.wf_ofBytes (Memory.within_ofBytes_length ?_)
    rw [GrayBuffer.size, ew, eh, hl]
    exact Nat.mul_one _

/-- The state a RESAMPLE that scales leaves (42_resampler.md R132). -/
def State.resampled (s : State) (buf : ImageBuffer) (tw : Word) (dh : Nat) : State :=
  s.replaceImage tw.toNat dh (filterImage s.params.filter (s.imageSamples buf) (s.imageW buf).toNat
    (s.imageH buf).toNat (s.imageChannels buf) tw.toNat dh) buf

theorem State.Inv.resampled (h : s.Inv) (buf : ImageBuffer) (tw : Word) {dh : Nat} (hdh : dh < 2 ^ 32) :
    (s.resampled buf tw dh).Inv := h.replaceImage buf tw.isLt hdh (filterImage_length ..)

theorem State.Inv.dithered (h : s.Inv) (mode : DitherMode) (v : Byte) : (s.dithered mode v).Inv :=
  h.withBmp (ditherScan_sound mode v s.gray.w s.gray.h (s.contents .gray)) _

theorem State.Inv.blankBitmap (h : s.Inv) (w ht : Word) : (s.blankBitmap w ht).Inv :=
  h.withBmp (bitmapOf_nil_sound w ht) s.acc

theorem State.Inv.withPixel (h : s.Inv) {x y : Word} (black : Bool) (hv : s.bmp.valid = true)
    (hin : s.pixelOutside x y = false) : (s.withPixel x y black).Inv := by
  have hout : ¬(s.bmp.w.toNat ≤ x.toNat ∨ s.bmp.h.toNat ≤ y.toNat) := fun e => by
    simp [pixelOutside_eq_true.mpr e] at hin
  obtain ⟨hx, hy⟩ := not_or.mp hout
  exact h.withBmp (h.bmp_sound.setPixel hv black (Nat.lt_of_not_le hx) (Nat.lt_of_not_le hy)) s.acc

theorem State.Inv.encoded (h : s.Inv) (m : PrintMode) {F : Nat} (hF : F ≤ 4) (g : Tag) : (s.encoded m F g).Inv := by
  refine h.withOut Memory.wf_ofBytes (Memory.within_ofBytes_length ?_)
  rw [rasterCommand_length, bytesAt_length, OutBuffer.size,
    BitVec.toNat_ofNat,
    Nat.mod_eq_of_lt (rasterCommandLength_lt g hF s.bmp.stride s.bmp.h)]

/-! ## Every command keeps the invariant -/

/-- The states a result may lead on to all meet the invariant. -/
def KeepsInv (r : Result) : Prop := ∀ t, r = .next t → t.Inv

theorem keepsInv_of_next {r : Result} (e : r = .next t) (h : t.Inv) : KeepsInv r := fun _ e' => by
  cases e.symm.trans e'
  exact h

theorem keepsInv_of_fault {r : Result} {f : Fault} (e : r = .fault f) : KeepsInv r := fun _ e' => nomatch e.symm.trans e'

theorem keepsInv_of_refused {r : Result} {f : Refusal} (e : r = .refused f) : KeepsInv r :=
  fun _ e' => nomatch e.symm.trans e'

theorem keepsInv_of_raise (h : s.Inv) {r : Result} {c : Code} (e : r = .next (s.raise c)) : KeepsInv r :=
  keepsInv_of_next e (h.raise c)

theorem resample_keepsInv (h : s.Inv) (buf : ImageBuffer) (tw : Word) {dh : Nat}
    (hdh : tw.toNat < (s.imageW buf).toNat → dh < 2 ^ 32) : KeepsInv (resample buf tw dh s) := by
  rcases resample_cases buf tw dh s with ⟨_, e⟩ | ⟨_, _, _, e⟩ | ⟨_, _, _, _, e⟩ | ⟨_, _, hw, _, e⟩
  · exact keepsInv_of_raise h e
  · exact keepsInv_of_next e (h.respond _)
  · exact keepsInv_of_raise h e
  · exact keepsInv_of_next e ((h.resampled buf tw (hdh hw)).respondNat _)

theorem ditherImage_keepsInv (h : s.Inv) (mode : DitherMode) (v : Byte) : KeepsInv (ditherImage mode v s) := by
  rcases ditherImage_cases mode v s with ⟨_, e⟩ | ⟨_, e⟩
  · exact keepsInv_of_raise h e
  · exact keepsInv_of_next e ((h.dithered mode v).respond _)

theorem dither_keepsInv (h : s.Inv) (mode : DitherMode) (v : Byte) : KeepsInv (dither mode v s) := by
  rcases dither_cases mode v s with ⟨_, e⟩ | ⟨_, e⟩
  · exact keepsInv_of_raise h e
  · exact e ▸ ditherImage_keepsInv h mode v

theorem encodeBitmap_keepsInv (h : s.Inv) (m : PrintMode) {F : Nat} (hF : F ≤ 4) (g : Tag) (lim : Nat) :
    KeepsInv (encodeBitmap m F g lim s) := by
  rcases encodeBitmap_cases m hF g lim s with
    ⟨_, e⟩ | ⟨_, ⟨_, e⟩ | ⟨_, ⟨_, e⟩ | ⟨_, ⟨_, e⟩ | ⟨_, ⟨_, e⟩ | ⟨_, ⟨_, e⟩ | ⟨_, e⟩⟩⟩⟩⟩⟩
  · exact keepsInv_of_refused e
  iterate 5 · exact keepsInv_of_raise h e
  · exact keepsInv_of_next e ((h.encoded m hF g).respond _)

/-- Whatever a command answers from a state that meets the invariant meets it again. -/
theorem exec_keepsInv (h : s.Inv) (i : Instr) : KeepsInv (exec i s) := by
  cases i with
  | srcDef fmt w ht =>
    rcases execSrcDef_cases fmt w ht s with ⟨_, e⟩ | ⟨_, e⟩
    · exact keepsInv_of_raise h e
    · exact keepsInv_of_next e ((h.defineSource fmt w ht).respondNat _)
  | rdcsr n =>
    rcases execRdcsr_cases n s with ⟨_, _, e⟩ | ⟨_, e⟩
    · exact keepsInv_of_next e (h.respond _)
    · exact keepsInv_of_next e (h.respondFree _)
  | gray =>
    rcases execGray_cases s with ⟨_, e⟩ | ⟨_, _, e⟩ | ⟨_, _, e⟩
    · exact keepsInv_of_raise h e
    · exact keepsInv_of_raise h e
    · exact keepsInv_of_next e (h.normalized.respond _)
  | resampleX buf tw th => exact resample_keepsInv h buf tw fun _ => th.isLt
  | resampleA buf tw =>
    exact resample_keepsInv h buf tw fun hw => (aspectHeight_le hw).trans_lt (s.imageH buf).isLt
  | ditherT v be => exact dither_keepsInv h _ v
  | ditherFs v be => exact dither_keepsInv h _ v
  | ditherAtk v be => exact dither_keepsInv h _ v
  | ditherU mode v be =>
    rcases execDitherU_cases mode v be s with ⟨_, e⟩ | ⟨_, _, e⟩ | ⟨_, _, e⟩
    · exact keepsInv_of_raise h e
    · exact (show exec (.ditherU mode v be) s = _ from e) ▸ ditherImage_keepsInv h _ v
    · exact keepsInv_of_raise h e
  | bmpNew w ht =>
    rcases execBmpNew_cases w ht s with ⟨_, e⟩ | ⟨_, e⟩
    · exact keepsInv_of_raise h e
    · exact keepsInv_of_next e ((h.blankBitmap w ht).respond _)
  | setPixel x y black =>
    rcases execSetPixel_cases x y black s with ⟨_, e⟩ | ⟨_, _, e⟩ | ⟨hv, hin, e⟩
    · exact keepsInv_of_raise h e
    · exact keepsInv_of_fault e
    · exact keepsInv_of_next e ((h.withPixel black hv hin).respond _)
  | getPixel x y =>
    rcases execGetPixel_cases x y s with ⟨_, e⟩ | ⟨_, _, e⟩ | ⟨_, _, e⟩
    · exact keepsInv_of_raise h e
    · exact keepsInv_of_fault e
    · exact keepsInv_of_next e (h.respond _)
  | rasterBytes =>
    rcases execRasterBytes_cases s with ⟨_, e⟩ | ⟨_, e⟩
    · exact keepsInv_of_raise h e
    · exact keepsInv_of_next e (h.respond _)
  | encodeStd m => exact encodeBitmap_keepsInv h m (by decide) _ _
  | encodeLarge m => exact encodeBitmap_keepsInv h m (by decide) _ _

/-- Settles O9: each move of the block keeps the invariant, a command by `exec_keepsInv`. -/
theorem stepKeepsTheInvariant : Obligations.StepKeepsTheInvariant := by
  intro s t h hstep
  cases step_move hstep with
  | idle _ result => exact result ▸ h
  | command d rest i _ _ answer => exact exec_keepsInv (h.afterTaking rest) i t answer
  | illegal d rest e _ _ result => exact result ▸ (h.afterTaking rest).raise _
  | write a bs rest _ _ inside result => exact result ▸ (h.afterTaking rest).written inside
  | read sp b a n rest _ _ _ _ result => exact result ▸ (h.afterTaking rest).observe _

/-! ## The bitmap's dimensions -/

/-- The size of a bitmap of width or height 0 whose stride matches its width. -/
theorem bmp_size_eq_zero (hst : s.bmp.stride.toNat = strideOf s.bmp.w.toNat) (h : s.bmp.w = 0 ∨ s.bmp.h = 0) :
    s.sizeOf .bmp = 0 := by
  show s.bmp.stride.toNat * s.bmp.h.toNat = 0
  rcases h with h | h
  · rw [hst, strideOf_eq_zero.mpr (word_toNat_eq_zero.mpr h), Nat.zero_mul]
  · rw [word_toNat_eq_zero.mpr h, Nat.mul_zero]

/-- Settles O10, from the invariant of the state after the step. -/
theorem bitmapContentsMatchItsDimensions : Obligations.BitmapContentsMatchItsDimensions := by
  intro s t h hstep hv
  have ht : t.Inv := stepKeepsTheInvariant s t h hstep
  have hst := ht.bmp_sound.stride hv
  have hlen := contents_length t .bmp
  refine ⟨hst, hlen, Memory.within_iff.mp ht.bmp_sound.fit, fun h0 => ?_⟩
  exact List.eq_nil_of_length_eq_zero (hlen.trans (bmp_size_eq_zero hst h0))

/-! ## What a command leaves alone -/

/-- Settles O15: an error leaves every buffer alone, and an `OK` ending names the writers. -/
theorem buffersChangeOnlyByTheirWriters : Obligations.BuffersChangeOnlyByTheirWriters := by
  intro i s t h
  cases exec_ending i s with
  | error c answer code =>
    rw [answer] at h
    cases h
    simp
  | ok u d answer observed host inputs src gray bmp out acc valid =>
    rw [answer] at h
    cases h
    exact ⟨src, gray, bmp, out, acc⟩
  | fatalStop x y command valid outside answer => rw [answer] at h; cases h
  | refused m command gfx answer => rw [answer] at h; cases h

/-- The profile, the parameters and `FATAL` with its cause are the same in both states. -/
def SameInputs (s t : State) : Prop :=
  t.profile = s.profile ∧ t.params = s.params ∧ t.fatal = s.fatal ∧ t.fatalCause = s.fatalCause

theorem exec_sameInputs {i : Instr} (h : exec i s = .next t) : SameInputs s t := by
  cases exec_ending i s with
  | error c answer code =>
    rw [answer] at h
    cases h
    exact ⟨rfl, rfl, rfl, rfl⟩
  | ok u d answer observed host inputs src gray bmp out acc valid =>
    rw [answer] at h
    cases h
    exact inputs
  | fatalStop x y command valid outside answer => rw [answer] at h; cases h
  | refused m command gfx answer => rw [answer] at h; cases h

/-- Settles O16, move by move. -/
theorem profileParametersAndFatalAreKept : Obligations.ProfileParametersAndFatalAreKept := by
  intro s t hstep
  cases step_move hstep with
  | idle _ result => exact result ▸ ⟨rfl, rfl, rfl, rfl⟩
  | command d rest i _ _ answer =>
    have kept : SameInputs (s.afterTaking rest) t := exec_sameInputs answer
    exact kept
  | illegal d rest e _ _ result => exact result ▸ ⟨rfl, rfl, rfl, rfl⟩
  | write a bs rest _ _ _ result => exact result ▸ ⟨rfl, rfl, rfl, rfl⟩
  | read sp b a n rest _ _ _ _ result => exact result ▸ ⟨rfl, rfl, rfl, rfl⟩

/-! ## The accumulator between commands -/

/-- A check that both results make alike takes them both one way. -/
theorem forgetAcc_ite_congr {c : Prop} [Decidable c] {r r' q q' : Result} (hr : forgetAcc r = forgetAcc r')
    (hq : forgetAcc q = forgetAcc q') : forgetAcc (if c then r else q) = forgetAcc (if c then r' else q') := by
  split
  · exact hr
  · exact hq

/-- A number is answered the same way whatever ACC holds. -/
theorem forgetAcc_respondNat (cells : List Int) (n : Nat) :
    forgetAcc (.next (State.respondNat n { s with acc := cells })) = forgetAcc (.next (s.respondNat n)) := by
  unfold State.respondNat
  split <;> rfl

theorem execSrcDef_forgetAcc (fmt : PixelFormat) (w h : Word) (cells : List Int) :
    forgetAcc (execSrcDef fmt w h { s with acc := cells }) = forgetAcc (execSrcDef fmt w h s) :=
  forgetAcc_ite_congr rfl (forgetAcc_respondNat (s := s.defineSource fmt w h) cells _)

theorem execRdcsr_forgetAcc (n : Csr) (cells : List Int) :
    forgetAcc (execRdcsr n { s with acc := cells }) = forgetAcc (execRdcsr n s) := by
  have hcsr : State.csr { s with acc := cells } n = s.csr n := by cases n <;> rfl
  unfold execRdcsr
  rw [hcsr]
  cases s.csr n <;> rfl

theorem execGray_forgetAcc (cells : List Int) :
    forgetAcc (execGray { s with acc := cells }) = forgetAcc (execGray s) :=
  forgetAcc_ite_congr rfl (forgetAcc_ite_congr rfl (forgetAcc_respondNat (s := s.normalized) cells _))

theorem resample_forgetAcc (buf : ImageBuffer) (tw : Word) (dh : Nat) (cells : List Int) :
    forgetAcc (resample buf tw dh { s with acc := cells }) = forgetAcc (resample buf tw dh s) := by
  have scaled := forgetAcc_respondNat (s := s.resampled buf tw dh) cells (dims tw.toNat dh)
  cases buf <;>
  · exact forgetAcc_ite_congr rfl <| forgetAcc_ite_congr rfl <|
      forgetAcc_ite_congr (forgetAcc_respondNat cells _) <| forgetAcc_ite_congr rfl scaled

theorem ditherImage_forgetAcc (mode : DitherMode) (v : Byte) (cells : List Int) :
    forgetAcc (ditherImage mode v { s with acc := cells }) = forgetAcc (ditherImage mode v s) :=
  forgetAcc_ite_congr rfl rfl

theorem dither_forgetAcc (mode : DitherMode) (v : Byte) (cells : List Int) :
    forgetAcc (dither mode v { s with acc := cells }) = forgetAcc (dither mode v s) :=
  forgetAcc_ite_congr rfl (ditherImage_forgetAcc mode v cells)

theorem execDitherU_forgetAcc (mode v : Byte) (be : Bool) (cells : List Int) :
    forgetAcc (execDitherU mode v be { s with acc := cells }) = forgetAcc (execDitherU mode v be s) :=
  forgetAcc_ite_congr rfl (forgetAcc_ite_congr (ditherImage_forgetAcc _ v cells) rfl)

theorem execBmpNew_forgetAcc (w h : Word) (cells : List Int) :
    forgetAcc (execBmpNew w h { s with acc := cells }) = forgetAcc (execBmpNew w h s) :=
  forgetAcc_ite_congr rfl (forgetAcc_respondNat (s := s.blankBitmap w h) cells _)

theorem execSetPixel_forgetAcc (x y : Word) (black : Bool) (cells : List Int) :
    forgetAcc (execSetPixel x y black { s with acc := cells }) = forgetAcc (execSetPixel x y black s) :=
  forgetAcc_ite_congr rfl (forgetAcc_ite_congr rfl rfl)

theorem execGetPixel_forgetAcc (x y : Word) (cells : List Int) :
    forgetAcc (execGetPixel x y { s with acc := cells }) = forgetAcc (execGetPixel x y s) :=
  forgetAcc_ite_congr rfl (forgetAcc_ite_congr rfl rfl)

theorem execRasterBytes_forgetAcc (cells : List Int) :
    forgetAcc (execRasterBytes { s with acc := cells }) = forgetAcc (execRasterBytes s) :=
  forgetAcc_ite_congr rfl (forgetAcc_respondNat cells _)

theorem encodeBitmap_forgetAcc (m : PrintMode) (F : Nat) (g : Tag) (lim : Nat) (cells : List Int) :
    forgetAcc (encodeBitmap m F g lim { s with acc := cells }) = forgetAcc (encodeBitmap m F g lim s) :=
  forgetAcc_ite_congr rfl <| forgetAcc_ite_congr rfl <| forgetAcc_ite_congr rfl <| forgetAcc_ite_congr rfl <|
    forgetAcc_ite_congr rfl <| forgetAcc_ite_congr rfl <|
      forgetAcc_respondNat (s := s.encoded m F g) cells _

/-- Settles O17: no check and no answer of a command reads ACC. -/
theorem accumulatorIsDeadBetweenCommands : Obligations.AccumulatorIsDeadBetweenCommands := by
  intro i s cells
  cases i with
  | srcDef fmt w h => exact execSrcDef_forgetAcc fmt w h cells
  | rdcsr n => exact execRdcsr_forgetAcc n cells
  | gray => exact execGray_forgetAcc cells
  | resampleX buf tw th => exact resample_forgetAcc buf tw _ cells
  | resampleA buf tw => cases buf <;> exact resample_forgetAcc _ tw _ cells
  | ditherT v be => exact dither_forgetAcc _ v cells
  | ditherFs v be => exact dither_forgetAcc _ v cells
  | ditherAtk v be => exact dither_forgetAcc _ v cells
  | ditherU mode v be => exact execDitherU_forgetAcc mode v be cells
  | bmpNew w h => exact execBmpNew_forgetAcc w h cells
  | setPixel x y black => exact execSetPixel_forgetAcc x y black cells
  | getPixel x y => exact execGetPixel_forgetAcc x y cells
  | rasterBytes => exact execRasterBytes_forgetAcc cells
  | encodeStd m => exact encodeBitmap_forgetAcc m 2 _ _ cells
  | encodeLarge m => exact encodeBitmap_forgetAcc m 4 _ _ cells

/-! ## The step and reset -/

/-- Settles O1: the action is taken, and the descriptor run as the command it decodes to. -/
theorem stepRunsThePresentedCommand : Obligations.StepRunsThePresentedCommand :=
  fun _ _ _ _ hf hh hd => (step_of_command hf hh).trans (runDescriptor_of_ok hd)

/-- Settles O3: the step of a halted block is its halted outcome, which the pending action decides. -/
theorem haltedBlockAcceptsNothing : Obligations.HaltedBlockAcceptsNothing := by
  intro s hf
  rw [step_of_fatal hf]
  refine ⟨fun t => haltedOutcome_ne_next, ?_, ?_, ?_⟩
  · intro d rest hh
    simp [State.haltedOutcome, hh]
  · intro sp a bs rest hh
    simp [State.haltedOutcome, hh]
  · intro sp a n rest hh
    simp [State.haltedOutcome, hh]

/-- Settles O7, by the values the reset state is written with. -/
theorem resetClearsValidBitsAndFatal : Obligations.ResetClearsValidBitsAndFatal :=
  ⟨fun b => by cases b <;> rfl, rfl, rfl⟩

/-- Settles O8: every buffer is nil and lists nothing. -/
theorem resetMeetsTheInvariant : Obligations.ResetMeetsTheInvariant where
  memories := ⟨rfl, rfl, rfl, rfl⟩
  fit      := ⟨rfl, rfl, rfl, rfl⟩
  stride   := fun valid => nomatch valid
  padding  := fun valid => nomatch valid
  cause    := ⟨fun _ => rfl, fun fatal => nomatch fatal⟩
  params   := (by decide : 11 ≤ Config.defaultParams.accBits)

end Sys2Proof.Machine
end

section
/-! PROOFS, family 20_memory.md. The host's accesses and what they answer, the padding bits, and for every command whether
its capacity check stops it. -/

namespace Sys2Proof.Machine

variable {s t : State}

/-! ## Several bytes written and read -/

namespace Memory

variable {u : Option Byte} {d : Nat → Byte} {m : Memory} {a o k : Nat} {vs : List Byte}

/-- Writing several bytes leaves every byte outside them alone. -/
theorem read_writeBytes_of_outside (h : o < a ∨ a + vs.length ≤ o) : read d (writeBytes u m a vs) o = read d m o := by
  induction vs generalizing m a with
  | nil => rfl
  | cons v vs ih =>
    rw [List.length_cons] at h
    calc read d (writeBytes u (write u m a v) (a + 1) vs) o
        = read d (write u m a v) o := ih (by omega)
      _ = read d m o := read_write_of_ne (by omega)

/-- Several bytes written to SRC are read back, whatever the draws were. -/
theorem read_writeBytes_none (hk : k < vs.length) : read d (writeBytes none m a vs) (a + k) = vs.getD k 0 := by
  induction vs generalizing m a k with
  | nil => nomatch hk
  | cons v vs ih =>
    cases k with
    | zero => exact (read_writeBytes_of_outside (.inl a.lt_succ_self)).trans read_write_none
    | succ k =>
      rw [Nat.add_comm k, ← Nat.add_assoc, Nat.add_comm 1]
      exact ih (Nat.lt_of_succ_lt_succ hk)

end Memory

theorem byteAt_written_of_outside {a o : Nat} {bs : List Byte} (h : o < a ∨ a + bs.length ≤ o) :
    (s.written a bs).byteAt .src o = s.byteAt .src o := Memory.read_writeBytes_of_outside h

theorem byteAt_written_of_inside {a k : Nat} {bs : List Byte} (h : k < bs.length) :
    (s.written a bs).byteAt .src (a + k) = bs.getD k 0 := Memory.read_writeBytes_none h

theorem memOf_rising (h : s.memoriesCanonical) (b : Buffer) : (s.memOf b).rising = true := by
  obtain ⟨src, gray, bmp, out⟩ := h
  cases b with
  | src => exact (Memory.wf_iff.mp src).1
  | gray => exact (Memory.wf_iff.mp gray).1
  | bmp => exact (Memory.wf_iff.mp bmp).1
  | out => exact (Memory.wf_iff.mp out).1

theorem bytesAt_getD {b : Buffer} {a n k : Nat} (hm : (s.memOf b).rising = true) (hk : k < n) :
    (s.bytesAt b a n).getD k 0 = s.byteAt b (a + k) :=
  List.getD_eq_getElem?_getD.trans (congrArg (Option.getD · 0) (Memory.readBytes_getElem? hm hk))

/-! ## What a host access answers -/

/-- The host's write inside the size of a valid SRC is performed (20_memory.md R61). -/
theorem hostWrite_of_inside {a : Nat} {bs : List Byte} (hv : s.src.valid = true) (hin : a + bs.length ≤ s.src.size) :
    s.hostWrite .src a bs = .next (s.written a bs) := by
  simp [State.hostWrite, State.isNil, State.validBit, hv, Nat.not_lt.mpr hin, State.written]

/-- Every other write of the host is refused (20_memory.md R62). -/
theorem hostWrite_refused {sp : Space} {a : Nat} {bs : List Byte}
    (h : sp ≠ .src ∨ s.src.valid = false ∨ s.src.size < a + bs.length) : ∃ r, s.hostWrite sp a bs = .refused r := by
  cases sp with
  | gray | acc | bmp | out => exact ⟨_, rfl⟩
  | src =>
    cases hv : s.src.valid with
    | false => exact ⟨.hostBufferNil, by simp [State.hostWrite, State.isNil, State.validBit, hv]⟩
    | true =>
      have past : s.src.size < a + bs.length := by simpa [hv] using h
      exact ⟨.hostOffsetOutOfRange, by simp [State.hostWrite, State.isNil, State.validBit, hv, past]⟩

theorem readBuffer_of_inside {b : Buffer} {a n : Nat} (hv : s.validBit b = true) (hin : a + n ≤ s.sizeOf b) :
    s.readBuffer b a n = .next (s.observe (.bytes (s.bytesAt b a n))) := by
  simp [State.readBuffer, State.isNil, hv, Nat.not_lt.mpr hin]

theorem readBuffer_refused {b : Buffer} {a n : Nat} (h : s.validBit b = false ∨ s.sizeOf b < a + n) :
    ∃ r, s.readBuffer b a n = .refused r := by
  cases hv : s.validBit b with
  | false => exact ⟨.hostBufferNil, by simp [State.readBuffer, State.isNil, hv]⟩
  | true =>
    have past : s.sizeOf b < a + n := by simpa [hv] using h
    exact ⟨.hostOffsetOutOfRange, by simp [State.readBuffer, State.isNil, hv, past]⟩

/-- The host's read of a space with a buffer behind it is a read of that buffer (20_memory.md R61). -/
theorem hostRead_of_readable {sp : Space} {b : Buffer} {a n : Nat} (h : readableBuffer sp = some b) :
    s.hostRead sp a n = s.readBuffer b a n := by
  cases sp with
  | acc => nomatch h
  | src | gray | bmp | out => cases h; rfl

/-- Settles O4: the write that stays inside SRC is performed, and its bytes are read back. -/
theorem hostWriteStoresItsBytes : Obligations.HostWriteStoresItsBytes := by
  intro s a bs rest hf hh hv hin
  refine ⟨(s.afterTaking rest).written a bs, ?_, rfl, fun k => byteAt_written_of_inside,
    fun o => byteAt_written_of_outside⟩
  exact (step_of_write hf hh).trans (hostWrite_of_inside hv hin)

/-- Settles O5: the read is one of the buffer behind the space, and gives the byte at each offset. -/
theorem hostReadReturnsTheBytes : Obligations.HostReadReturnsTheBytes := by
  intro s sp b a n rest hf hh hb hm hv hin
  refine ⟨s.bytesAt b a n, ?_, bytesAt_length s b a n, fun k => bytesAt_getD (memOf_rising hm b)⟩
  calc step s
      = (s.afterTaking rest).hostRead sp a n := step_of_read hf hh
    _ = (s.afterTaking rest).readBuffer b a n := hostRead_of_readable hb
    _ = _ := readBuffer_of_inside hv hin

/-- Settles O6: a halted block refuses every access, and the access itself refuses what is outside the table. -/
theorem hostAccessOutsideTheTableIsRefused : Obligations.HostAccessOutsideTheTableIsRefused := by
  intro s rest
  cases hf : s.fatal with
  | true =>
    obtain ⟨-, -, write, read⟩ := haltedBlockAcceptsNothing s hf
    exact ⟨fun sp a bs hh _ => ⟨_, write sp a bs rest hh⟩, fun sp a n hh _ => ⟨_, read sp a n rest hh⟩⟩
  | false =>
    constructor
    · intro sp a bs hh h
      rw [step_of_write hf hh]
      refine hostWrite_refused ?_
      rcases h with space | nil | ⟨k, hk, past⟩ | halted
      · exact .inl space
      · exact .inr (.inl nil)
      · exact .inr (.inr (past.trans_lt (Nat.add_lt_add_left hk a)))
      · nomatch halted
    · intro sp a n hh h
      rw [step_of_read hf hh]
      rcases h with rfl | ⟨b, hb, outside⟩ | halted
      · exact ⟨.hostSpaceForbidden, rfl⟩
      · rw [hostRead_of_readable hb]
        exact readBuffer_refused (outside.imp_right fun ⟨k, hk, past⟩ => past.trans_lt (Nat.add_lt_add_left hk a))
      · nomatch halted

/-! ## Padding bits -/

/-- A byte whose low `n` bits are 0 is a multiple of `2 ^ n`. -/
theorem toNat_mod_two_pow_eq_zero {v : Byte} {n : Nat} (h : ∀ k, k < n → v.getLsbD k = false) :
    v.toNat % 2 ^ n = 0 := by
  refine Nat.eq_of_testBit_eq fun k => ?_
  rw [Nat.testBit_mod_two_pow, Nat.zero_testBit, BitVec.testBit_toNat]
  by_cases hk : k < n
  · simp [hk, h k hk]
  · simp [hk]

/-- Bit `k` of the last byte of a row is a pixel of the bit grid, past the width if `k` is one of the padding bits
(20_memory.md R53, R54). -/
theorem paddingBit_pixel {w k : Nat} (y : Nat) (hw : w % 8 ≠ 0) (hk : k < 8 - w % 8) :
    ∃ x, w ≤ x ∧ x < 8 * strideOf w ∧ pixelBit x = k ∧
      pixelOffset (strideOf w) x y = y * strideOf w + (strideOf w - 1) := by
  have hst : strideOf w = w / 8 + 1 := by unfold strideOf; omega
  rw [hst]
  refine ⟨8 * (w / 8) + (7 - k), by omega, by omega, by unfold pixelBit; omega, ?_⟩
  unfold pixelOffset
  congr 1
  omega

/-- Settles O11: each low bit of a row's last byte is a pixel past the width, which the invariant says is 0. -/
theorem paddingBitsStayZero : Obligations.PaddingBitsStayZero := by
  intro s t y h hstep hv hw hy
  have ht : t.Inv := stepKeepsTheInvariant s t h hstep
  have hst : t.bmp.stride.toNat = strideOf t.bmp.w.toNat := ht.stride hv
  refine toNat_mod_two_pow_eq_zero fun k hk => ?_
  obtain ⟨x, hx, hgrid, hbit, hoff⟩ := paddingBit_pixel y hw hk
  rw [← hst] at hgrid hoff
  rw [← hoff, ← hbit]
  exact ht.padding hv x y hx hgrid hy

/-! ## Capacities -/

/-- The command raises `CapacityExceeded` if `P` holds, and does not answer it otherwise. -/
inductive CapacityCheck (i : Instr) (s : State) (P : Prop) : Prop where
  | exceeds (condition : P) (answer : exec i s = .next (s.raise .capacityExceeded))
  | passes (condition : ¬P) (answer : ¬Answers i s .capacityExceeded)

section
variable {i : Instr} {P : Prop}

theorem CapacityCheck.of_error {c : Code} (hP : ¬P) (e : exec i s = .next (s.raise c))
    (hc : Code.capacityExceeded ≠ c) : CapacityCheck i s P :=
  .passes hP fun h => hc ((answers_of_raise e).mp h)

theorem CapacityCheck.of_respond {d : DWord} (hP : ¬P) (e : exec i s = .next (t.respond d))
    (ht : t.observed = s.observed) : CapacityCheck i s P :=
  .passes hP fun h => nomatch (answers_of_respond e ht).mp h

theorem CapacityCheck.of_respondNat {n : Nat} (hP : ¬P) (e : exec i s = .next (t.respondNat n))
    (ht : t.observed = s.observed) : CapacityCheck i s P := by
  obtain ⟨u, d, hu, rfl | rfl⟩ := respondNat_ending t n <;>
  · rw [hu] at e
    exact .of_respond hP e ht

end

/-- A size that passes the check fits. -/
theorem fits_of_exceeds {n : Nat} {cap : Option Nat} (h : exceeds n cap = false) : Fits n cap := exceeds_eq_false.mp h

theorem srcDef_capacityCheck (fmt : PixelFormat) (w h : Word) :
    CapacityCheck (.srcDef fmt w h) s (CapacityExceededCondition s (.srcDef fmt w h)) := by
  rcases execSrcDef_cases fmt w h s with ⟨hc, e⟩ | ⟨hc, e⟩
  · exact .exceeds (not_fits_iff.mpr hc) e
  · exact .of_respondNat (not_not.mpr (fits_of_exceeds hc)) e rfl

theorem rdcsr_capacityCheck (n : Csr) : CapacityCheck (.rdcsr n) s False := by
  rcases execRdcsr_cases n s with ⟨_, _, e⟩ | ⟨_, e⟩
  · exact .of_respond not_false e rfl
  · exact .of_respond (t := { s with draws := s.draws + 1 }) not_false e rfl

theorem gray_capacityCheck : CapacityCheck .gray s (CapacityExceededCondition s .gray) := by
  rcases execGray_cases s with ⟨hu, e⟩ | ⟨hu, hc, e⟩ | ⟨_, hc, e⟩
  · exact .of_error (fun ⟨image, _⟩ => by simp [srcHoldsImage_iff.mp image] at hu) e (by decide)
  · exact .exceeds ⟨srcHoldsImage_iff.mpr hu, not_fits_iff.mpr hc⟩ e
  · exact .of_respond (fun ⟨_, large⟩ => large (fits_of_exceeds hc)) e rfl

theorem resample_capacityCheck {i : Instr} {buf : ImageBuffer} {tw : Word} {dh : Nat}
    (he : exec i s = resample buf tw dh s) : CapacityCheck i s (ResampleExceeds s buf tw dh) := by
  rcases resample_cases buf tw dh s with ⟨hbad, e⟩ | ⟨_, _, hw, e⟩ | ⟨hu, h0, hw, hc, e⟩ | ⟨_, _, _, hc, e⟩
  · refine .of_error (fun ⟨image, width, _, _⟩ => ?_) (he.trans e) (by decide)
    rcases hbad with hu | h0
    · simp [holdsImage_iff.mp image] at hu
    · exact width (word_toNat_eq_zero.mp h0)
  · exact .of_respond (fun ⟨_, _, narrower, _⟩ => Nat.not_lt_of_le hw narrower) (he.trans e) rfl
  · exact .exceeds ⟨holdsImage_iff.mpr hu, fun h => h0 (word_toNat_eq_zero.mpr h), hw, not_fits_iff.mpr hc⟩ (he.trans e)
  · exact .of_respondNat (fun ⟨_, _, _, large⟩ => large (fits_of_exceeds hc)) (he.trans e) (by cases buf <;> rfl)

/-- Past the first check a DITHER is stopped by its bitmap's size alone. -/
theorem ditherImage_capacityCheck {i : Instr} {mode : DitherMode} {v : Byte} (hu : s.grayUnusable = false)
    (he : exec i s = ditherImage mode v s) : CapacityCheck i s (DitherExceeds s) := by
  rcases ditherImage_cases mode v s with ⟨hc, e⟩ | ⟨hc, e⟩
  · exact .exceeds ⟨grayHoldsImage_iff.mpr hu, not_fits_iff.mpr hc⟩ (he.trans e)
  · exact .of_respond (fun ⟨_, large⟩ => large (fits_of_exceeds hc)) (he.trans e) rfl

theorem not_ditherExceeds_of_unusable (hu : s.grayUnusable = true) : ¬DitherExceeds s :=
  fun ⟨image, _⟩ => by simp [grayHoldsImage_iff.mp image] at hu

theorem dither_capacityCheck {i : Instr} {mode : DitherMode} {v : Byte} (he : exec i s = dither mode v s) :
    CapacityCheck i s (DitherExceeds s) := by
  rcases dither_cases mode v s with ⟨hu, e⟩ | ⟨hu, e⟩
  · exact .of_error (not_ditherExceeds_of_unusable hu) (he.trans e) (by decide)
  · exact ditherImage_capacityCheck hu (he.trans e)

theorem ditherU_capacityCheck (mode v : Byte) (be : Bool) :
    CapacityCheck (.ditherU mode v be) s (be = true ∧ DitherExceeds s) := by
  rcases execDitherU_cases mode v be s with ⟨hu, e⟩ | ⟨hu, rfl, e⟩ | ⟨_, rfl, e⟩
  · exact .of_error (fun ⟨_, large⟩ => not_ditherExceeds_of_unusable hu large) e (by decide)
  · simpa using ditherImage_capacityCheck (i := .ditherU mode v true) hu e
  · exact .of_error (fun ⟨optIn, _⟩ => nomatch optIn) e (by decide)

theorem bmpNew_capacityCheck (w h : Word) :
    CapacityCheck (.bmpNew w h) s (CapacityExceededCondition s (.bmpNew w h)) := by
  rcases execBmpNew_cases w h s with ⟨hc, e⟩ | ⟨hc, e⟩
  · exact .exceeds (not_fits_iff.mpr hc) e
  · exact .of_respond (not_not.mpr (fits_of_exceeds hc)) e rfl

theorem setPixel_capacityCheck (x y : Word) (black : Bool) : CapacityCheck (.setPixel x y black) s False := by
  rcases execSetPixel_cases x y black s with ⟨_, e⟩ | ⟨_, _, e⟩ | ⟨_, _, e⟩
  · exact .of_error not_false e (by decide)
  · exact .passes not_false (not_answers_of_fault e)
  · exact .of_respond not_false e rfl

theorem getPixel_capacityCheck (x y : Word) : CapacityCheck (.getPixel x y) s False := by
  rcases execGetPixel_cases x y s with ⟨_, e⟩ | ⟨_, _, e⟩ | ⟨_, _, e⟩
  · exact .of_error not_false e (by decide)
  · exact .passes not_false (not_answers_of_fault e)
  · exact .of_respond not_false e rfl

theorem rasterBytes_capacityCheck : CapacityCheck .rasterBytes s False := by
  rcases execRasterBytes_cases s with ⟨_, e⟩ | ⟨_, e⟩
  · exact .of_error not_false e (by decide)
  · exact .of_respond not_false e rfl

/-- The conditions of `EncodeExceeds` in the words of the encoder's checks (45_encoder.md R209). -/
theorem encodeExceeds_iff {g : Tag} {F lim : Nat} : EncodeExceeds s (g.bytes.length + 1 + 2 * F) lim ↔
    s.profile.gfx = true ∧ s.bmp.valid = true ∧ ¬(s.bmp.stride.toNat = 0 ∨ s.bmp.h.toNat = 0) ∧
      ¬(lim < s.bmp.stride.toNat ∨ lim < s.bmp.h.toNat) ∧
      s.bmp.stride.toNat * s.bmp.h.toNat ≤ s.profile.maxBuf.toNat ∧
      exceeds (rasterCommandLength g F (s.bmp.stride.toNat * s.bmp.h.toNat)) s.params.outCap = true := by
  rw [EncodeExceeds, not_fits_iff, not_or, not_or, word_toNat_eq_zero, word_toNat_eq_zero, Nat.not_lt, Nat.not_lt,
    and_assoc, and_assoc]
  rfl

theorem encode_capacityCheck {i : Instr} {m : PrintMode} {F lim : Nat} {g : Tag} (hF : F ≤ 4)
    (he : exec i s = encodeBitmap m F g lim s) :
    CapacityCheck i s (EncodeExceeds s (g.bytes.length + 1 + 2 * F) lim) := by
  rw [encodeExceeds_iff]
  rcases encodeBitmap_cases m hF g lim s with
    ⟨hg, e⟩ | ⟨hg, ⟨hv, e⟩ | ⟨hv, ⟨h0, e⟩ | ⟨h0, ⟨h1, e⟩ | ⟨h1, ⟨h2, e⟩ | ⟨h2, ⟨hc, e⟩ | ⟨hc, e⟩⟩⟩⟩⟩⟩
  · exact .passes (by simp [hg]) (not_answers_of_refused (he.trans e))
  · exact .of_error (by simp [hv]) (he.trans e) (by decide)
  · exact .of_error (fun ⟨_, _, nonempty, _⟩ => nonempty h0) (he.trans e) (by decide)
  · exact .of_error (fun ⟨_, _, _, narrow, _⟩ => narrow h1) (he.trans e) (by decide)
  · exact .of_error (fun ⟨_, _, _, _, small, _⟩ => Nat.not_le_of_lt h2 small) (he.trans e) (by decide)
  · exact .exceeds ⟨hg, hv, h0, h1, h2, hc⟩ (he.trans e)
  · exact .of_respond (by simp [hc]) (he.trans e) rfl

/-- Every command raises `CapacityExceeded` under its condition and answers it at no other time. -/
theorem exec_capacityCheck (i : Instr) (s : State) : CapacityCheck i s (CapacityExceededCondition s i) := by
  cases i with
  | srcDef fmt w h => exact srcDef_capacityCheck fmt w h
  | rdcsr n => exact rdcsr_capacityCheck n
  | gray => exact gray_capacityCheck
  | resampleX buf tw th => exact resample_capacityCheck rfl
  | resampleA buf tw => exact resample_capacityCheck rfl
  | ditherT v be => exact dither_capacityCheck rfl
  | ditherFs v be => exact dither_capacityCheck rfl
  | ditherAtk v be => exact dither_capacityCheck rfl
  | ditherU mode v be => exact ditherU_capacityCheck mode v be
  | bmpNew w h => exact bmpNew_capacityCheck w h
  | setPixel x y black => exact setPixel_capacityCheck x y black
  | getPixel x y => exact getPixel_capacityCheck x y
  | rasterBytes => exact rasterBytes_capacityCheck
  | encodeStd m => exact encode_capacityCheck (by decide) rfl
  | encodeLarge m => exact encode_capacityCheck (by decide) rfl

/-- Every number of bytes fits an unbounded capacity (00_scope.md R13). -/
theorem fits_of_unbounded {cap : Option Nat} (h : cap = none) (n : Nat) : Fits n cap := h ▸ fun _ e => nomatch e

theorem not_resampleExceeds_of_unbounded {buf : ImageBuffer} {tw : Word} {dh : Nat} (hc : s.imageCap buf = none) :
    ¬ResampleExceeds s buf tw dh := fun ⟨_, _, _, large⟩ => large (fits_of_unbounded hc _)

theorem not_ditherExceeds_of_unbounded (hc : s.params.bmpCap = none) : ¬DitherExceeds s :=
  fun ⟨_, large⟩ => large (fits_of_unbounded hc _)

theorem not_encodeExceeds_of_unbounded {overhead lim : Nat} (hc : s.params.outCap = none) :
    ¬EncodeExceeds s overhead lim := fun ⟨_, _, _, _, _, _, _, large⟩ => large (fits_of_unbounded hc _)

/-- With unbounded capacities no command meets the condition. -/
theorem not_capacityExceededCondition_of_unbounded (hs : s.params.srcCap = none) (hg : s.params.grayCap = none)
    (hb : s.params.bmpCap = none) (ho : s.params.outCap = none) (i : Instr) : ¬CapacityExceededCondition s i := by
  have image : ∀ buf, s.imageCap buf = none := fun buf => by cases buf <;> assumption
  cases i with
  | srcDef fmt w h => exact not_not.mpr (fits_of_unbounded hs _)
  | gray => exact fun ⟨_, large⟩ => large (fits_of_unbounded hg _)
  | resampleX buf tw th => exact not_resampleExceeds_of_unbounded (image buf)
  | resampleA buf tw => exact not_resampleExceeds_of_unbounded (image buf)
  | ditherT v be | ditherFs v be | ditherAtk v be => exact not_ditherExceeds_of_unbounded hb
  | ditherU mode v be => exact fun ⟨_, large⟩ => not_ditherExceeds_of_unbounded hb large
  | bmpNew w h => exact not_not.mpr (fits_of_unbounded hb _)
  | encodeStd m | encodeLarge m => exact not_encodeExceeds_of_unbounded ho
  | rdcsr n => exact not_false
  | setPixel x y black => exact not_false
  | getPixel x y => exact not_false
  | rasterBytes => exact not_false

theorem answers_capacityExceeded_iff (i : Instr) (s : State) :
    Answers i s .capacityExceeded ↔ CapacityExceededCondition s i := by
  cases exec_capacityCheck i s with
  | exceeds condition answer => exact iff_of_true ((answers_of_raise answer).mpr rfl) condition
  | passes condition answer => exact iff_of_false answer condition

/-- Settles O24: each command's capacity check, and the condition that no unbounded capacity meets. -/
theorem capacityExceededExactly : Obligations.CapacityExceededExactly := by
  refine ⟨answers_capacityExceeded_iff, fun i s h => ?_, fun i s hs hg hb ho answers => ?_⟩
  · cases exec_capacityCheck i s with
    | exceeds _ answer => exact answer
    | passes condition _ => exact absurd h condition
  · exact not_capacityExceededCondition_of_unbounded hs hg hb ho i ((answers_capacityExceeded_iff i s).mp answers)

end Sys2Proof.Machine
end

section
/-! PROOFS, family 30_encoding.md. Each command's row and each row's commands, the two directions of the round trip, the
selection by mask and match on whole descriptors, and what the block answers. -/

namespace Sys2Proof

/-! ## The row of a command -/

/-- The row of the opcode map that a command belongs to (30_encoding.md R83). -/
def Instr.row : Instr → Row
  | .srcDef _ _ _ => .srcDef
  | .rdcsr _ => .rdcsr
  | .gray => .gray
  | .resampleX _ _ _ => .resampleX
  | .resampleA _ _ => .resampleA
  | .ditherT _ _ => .ditherT
  | .ditherFs _ _ => .ditherFs
  | .ditherAtk _ _ => .ditherAtk
  | .ditherU _ _ _ => .ditherU
  | .bmpNew _ _ => .bmpNew
  | .setPixel _ _ _ => .setPixel
  | .getPixel _ _ => .getPixel
  | .rasterBytes => .rasterBytes
  | .encodeStd _ => .encodeStd
  | .encodeLarge _ => .encodeLarge

theorem Instr.row_mem (i : Instr) : i.row ∈ opcodeTable := by
  cases i <;> simp [Instr.row, opcodeTable]

theorem Instr.row_mnemonic (i : Instr) : i.row.mnemonic = i.mnemonic := by
  cases i <;> rfl

/-- The row reads every operand back out of the command's fields. -/
theorem Instr.row_build_fields (i : Instr) : i.row.build i.fields = .ok i := by
  cases i <;>
    simp only [Instr.row, Instr.fields, Row.srcDef, Row.rdcsr, Row.gray, Row.resampleX, Row.resampleA, Row.ditherT,
      Row.ditherFs, Row.ditherAtk, Row.ditherU, Row.bmpNew, Row.setPixel, Row.getPixel, Row.rasterBytes, Row.encodeStd,
      Row.encodeLarge, PixelFormat.ofBit_code, Csr.ofNumber_number, ImageBuffer.ofBit_code, ImageBuffer.ofBit_code_or,
      flagByte_getLsbD, PrintMode.ofByte_code]

theorem opcodeTable_mnemonic_nodup : (opcodeTable.map (·.mnemonic)).Nodup := by decide

/-- Every well-formed command's fields select a row of its mnemonic, command by command. -/
theorem selectRow_fields_mnemonic : ∀ i : Instr, Laws.OpcodeRow.Statement i
  | .srcDef fmt w h => Laws.OpcodeRow.srcDef fmt w h
  | .rdcsr n => Laws.OpcodeRow.rdcsr n
  | .gray => Laws.OpcodeRow.gray
  | .resampleX buf tw th => Laws.OpcodeRow.resampleX buf tw th
  | .resampleA buf tw => Laws.OpcodeRow.resampleA buf tw
  | .ditherT t be => Laws.OpcodeRow.ditherT t be
  | .ditherFs t be => Laws.OpcodeRow.ditherFs t be
  | .ditherAtk t be => Laws.OpcodeRow.ditherAtk t be
  | .ditherU mode t be => Laws.OpcodeRow.ditherU mode t be
  | .bmpNew w h => Laws.OpcodeRow.bmpNew w h
  | .setPixel x y black => Laws.OpcodeRow.setPixel x y black
  | .getPixel x y => Laws.OpcodeRow.getPixel x y
  | .rasterBytes => Laws.OpcodeRow.rasterBytes
  | .encodeStd m => Laws.OpcodeRow.encodeStd m
  | .encodeLarge m => Laws.OpcodeRow.encodeLarge m

/-- The row selected is the command's own, because no two rows share a mnemonic. -/
theorem selectRow_fields {i : Instr} (h : i.wellFormed = true) : selectRow i.fields = some i.row := by
  obtain ⟨r, hr, hm⟩ := Option.map_eq_some_iff.mp (selectRow_fields_mnemonic i h)
  rw [hr, List.inj_on_of_nodup_map opcodeTable_mnemonic_nodup (List.mem_of_find?_eq_some hr) i.row_mem
    (hm.trans i.row_mnemonic.symm)]

theorem decodeFields_of_selectRow {f : Fields} {r : Row} (h : selectRow f = some r) : decodeFields f = r.build f := by
  simp [decodeFields, h]

theorem decodeFields_fields {i : Instr} (h : i.wellFormed = true) : decodeFields i.fields = .ok i :=
  (decodeFields_of_selectRow (selectRow_fields h)).trans i.row_build_fields

/-- Settles O51: the fields come back out of the descriptor, select the command's row and are read by it. -/
theorem decodeOfEncodeIsTheCommand : Obligations.DecodeOfEncodeIsTheCommand := by
  intro i h
  rw [decode, encode, Fields.ofDescriptor_descriptor, decodeFields_fields h]

/-! ## The commands of a row -/

section
variable {b : Byte}

/-! An operand code is what its mask leaves free: with the masked bits fixed, the byte is the code of what is read. -/

theorem PixelFormat.code_ofBit (h : b &&& 0xFE = 0) : (PixelFormat.ofBit (b.getLsbD 0)).code = b := by
  revert b; decide

theorem ImageBuffer.code_ofBit (h : b &&& 0xFD = 0) : (ImageBuffer.ofBit (b.getLsbD 1)).code = b := by
  revert b; decide

theorem ImageBuffer.code_ofBit_or (h : b &&& 0xFD = 1) : (ImageBuffer.ofBit (b.getLsbD 1)).code ||| 1 = b := by
  revert b; decide

theorem PrintMode.code_ofByte (h : b &&& 0xFC = 0) : (PrintMode.ofByte b).code = b := by
  revert b; decide

theorem flagByte_of_masked (h : b &&& 0xFE = 0) : flagByte (b.getLsbD 0) = b := by
  revert b; decide

end

/-- Of a byte masked whole nothing is left free. -/
theorem eq_of_and_ff {b v : Byte} (h : b &&& 0xFF = v) : v = b := h.symm.trans (Laws.OpcodeRow.and_ff b)

/-- Of a word masked whole nothing is left free. -/
theorem eq_of_and_allOnes {w v : Word} (h : w &&& allOnes = v) : v = w := h.symm.trans BitVec.and_allOnes

theorem Fields.eq_of_parts {f g : Fields} (opc : f.opc = g.opc) (a : f.a = g.a) (b : f.b = g.b) (c : f.c = g.c)
    (p : f.p = g.p) (q : f.q = g.q) : f = g := by
  cases f
  simp_all

namespace Row

/-- A row selects fields when each masked field equals the pattern's (30_encoding.md R83). -/
theorem selects_iff {r : Row} {f : Fields} : r.selects f = true ↔
    f.opc &&& r.mask.opc = r.pattern.opc ∧ f.a &&& r.mask.a = r.pattern.a ∧ f.b &&& r.mask.b = r.pattern.b ∧
      f.c &&& r.mask.c = r.pattern.c ∧ f.p &&& r.mask.p = r.pattern.p ∧ f.q &&& r.mask.q = r.pattern.q := by
  simp [selects, and_assoc]

/-- The command a row reads out of fields it selects has those fields: no bit is ignored (30_encoding.md R84). -/
def KeepsFields (r : Row) : Prop :=
  ∀ (f : Fields) (i : Instr), r.selects f = true → r.build f = .ok i → i.fields = f

/-- A row that reads a command out of all fields keeps them if the command has every part that the row selects. -/
theorem keepsFields_of_parts {r : Row} {command : Fields → Instr} (hbuild : ∀ f, r.build f = .ok (command f))
    (hparts : ∀ f : Fields, f.opc &&& r.mask.opc = r.pattern.opc → f.a &&& r.mask.a = r.pattern.a →
      f.b &&& r.mask.b = r.pattern.b → f.c &&& r.mask.c = r.pattern.c → f.p &&& r.mask.p = r.pattern.p →
      f.q &&& r.mask.q = r.pattern.q → (command f).fields = f) : r.KeepsFields := by
  intro f i hs hi
  obtain ⟨hopc, ha, hb, hc, hp, hq⟩ := selects_iff.mp hs
  rw [← Except.ok.inj ((hbuild f).symm.trans hi)]
  exact hparts f hopc ha hb hc hp hq

theorem srcDef_keepsFields : srcDef.KeepsFields :=
  keepsFields_of_parts (fun _ => rfl) fun _ hopc ha hb hc _ _ => Fields.eq_of_parts (eq_of_and_ff hopc)
    (PixelFormat.code_ofBit ha) (eq_of_and_ff hb) (eq_of_and_ff hc) rfl rfl

/-- A listed CSR number is its register's. -/
theorem rdcsr_keepsFields : rdcsr.KeepsFields := by
  intro f i hs hi
  obtain ⟨hopc, -, hb, hc, hp, hq⟩ := selects_iff.mp hs
  simp only [rdcsr] at hi
  split at hi
  next n hn =>
    cases hi
    exact Fields.eq_of_parts (eq_of_and_ff hopc) (Csr.number_of_ofNumber hn) (eq_of_and_ff hb) (eq_of_and_ff hc)
      (eq_of_and_allOnes hp) (eq_of_and_allOnes hq)
  next => cases hi

theorem gray_keepsFields : gray.KeepsFields :=
  keepsFields_of_parts (fun _ => rfl) fun _ hopc ha hb hc hp hq => Fields.eq_of_parts (eq_of_and_ff hopc)
    (eq_of_and_ff ha) (eq_of_and_ff hb) (eq_of_and_ff hc) (eq_of_and_allOnes hp) (eq_of_and_allOnes hq)

theorem resampleX_keepsFields : resampleX.KeepsFields :=
  keepsFields_of_parts (fun _ => rfl) fun _ hopc ha hb hc _ _ => Fields.eq_of_parts (eq_of_and_ff hopc)
    (ImageBuffer.code_ofBit ha) (eq_of_and_ff hb) (eq_of_and_ff hc) rfl rfl

theorem resampleA_keepsFields : resampleA.KeepsFields :=
  keepsFields_of_parts (fun _ => rfl) fun _ hopc ha hb hc _ hq => Fields.eq_of_parts (eq_of_and_ff hopc)
    (ImageBuffer.code_ofBit_or ha) (eq_of_and_ff hb) (eq_of_and_ff hc) rfl (eq_of_and_allOnes hq)

theorem ditherT_keepsFields : ditherT.KeepsFields :=
  keepsFields_of_parts (fun _ => rfl) fun _ hopc ha _ hc hp hq => Fields.eq_of_parts (eq_of_and_ff hopc)
    (eq_of_and_ff ha) rfl (flagByte_of_masked hc) (eq_of_and_allOnes hp) (eq_of_and_allOnes hq)

theorem ditherFs_keepsFields : ditherFs.KeepsFields :=
  keepsFields_of_parts (fun _ => rfl) fun _ hopc ha _ hc hp hq => Fields.eq_of_parts (eq_of_and_ff hopc)
    (eq_of_and_ff ha) rfl (flagByte_of_masked hc) (eq_of_and_allOnes hp) (eq_of_and_allOnes hq)

theorem ditherAtk_keepsFields : ditherAtk.KeepsFields :=
  keepsFields_of_parts (fun _ => rfl) fun _ hopc ha _ hc hp hq => Fields.eq_of_parts (eq_of_and_ff hopc)
    (eq_of_and_ff ha) rfl (flagByte_of_masked hc) (eq_of_and_allOnes hp) (eq_of_and_allOnes hq)

theorem ditherU_keepsFields : ditherU.KeepsFields :=
  keepsFields_of_parts (fun _ => rfl) fun _ hopc _ _ hc hp hq => Fields.eq_of_parts (eq_of_and_ff hopc)
    rfl rfl (flagByte_of_masked hc) (eq_of_and_allOnes hp) (eq_of_and_allOnes hq)

theorem bmpNew_keepsFields : bmpNew.KeepsFields :=
  keepsFields_of_parts (fun _ => rfl) fun _ hopc ha hb hc _ _ => Fields.eq_of_parts (eq_of_and_ff hopc)
    (eq_of_and_ff ha) (eq_of_and_ff hb) (eq_of_and_ff hc) rfl rfl

theorem setPixel_keepsFields : setPixel.KeepsFields :=
  keepsFields_of_parts (fun _ => rfl) fun _ hopc ha hb hc _ _ => Fields.eq_of_parts (eq_of_and_ff hopc)
    (flagByte_of_masked ha) (eq_of_and_ff hb) (eq_of_and_ff hc) rfl rfl

theorem getPixel_keepsFields : getPixel.KeepsFields :=
  keepsFields_of_parts (fun _ => rfl) fun _ hopc ha hb hc _ _ => Fields.eq_of_parts (eq_of_and_ff hopc)
    (eq_of_and_ff ha) (eq_of_and_ff hb) (eq_of_and_ff hc) rfl rfl

theorem rasterBytes_keepsFields : rasterBytes.KeepsFields :=
  keepsFields_of_parts (fun _ => rfl) fun _ hopc ha hb hc hp hq => Fields.eq_of_parts (eq_of_and_ff hopc)
    (eq_of_and_ff ha) (eq_of_and_ff hb) (eq_of_and_ff hc) (eq_of_and_allOnes hp) (eq_of_and_allOnes hq)

theorem encodeStd_keepsFields : encodeStd.KeepsFields :=
  keepsFields_of_parts (fun _ => rfl) fun _ hopc ha hb hc hp hq => Fields.eq_of_parts (eq_of_and_ff hopc)
    (PrintMode.code_ofByte ha) (eq_of_and_ff hb) (eq_of_and_ff hc) (eq_of_and_allOnes hp) (eq_of_and_allOnes hq)

theorem encodeLarge_keepsFields : encodeLarge.KeepsFields :=
  keepsFields_of_parts (fun _ => rfl) fun _ hopc ha hb hc hp hq => Fields.eq_of_parts (eq_of_and_ff hopc)
    (PrintMode.code_ofByte ha) (eq_of_and_ff hb) (eq_of_and_ff hc) (eq_of_and_allOnes hp) (eq_of_and_allOnes hq)

theorem keepsFields_of_mem {r : Row} (h : r ∈ opcodeTable) : r.KeepsFields := by
  revert r
  simp [opcodeTable, srcDef_keepsFields, rdcsr_keepsFields, gray_keepsFields, resampleX_keepsFields,
    resampleA_keepsFields, ditherT_keepsFields, ditherFs_keepsFields, ditherAtk_keepsFields, ditherU_keepsFields,
    bmpNew_keepsFields, setPixel_keepsFields, getPixel_keepsFields, rasterBytes_keepsFields, encodeStd_keepsFields,
    encodeLarge_keepsFields]

end Row

/-! ## What a descriptor that decodes is -/

theorem selectRow_some {f : Fields} {r : Row} (h : selectRow f = some r) : r ∈ opcodeTable ∧ r.selects f = true :=
  ⟨List.mem_of_find?_eq_some h, List.find?_some (p := fun r : Row => r.selects f) h⟩

/-- Fields that decode are taken by a row, which reads the command out of them. -/
theorem selectRow_of_decodeFields {f : Fields} {i : Instr} (h : decodeFields f = .ok i) :
    ∃ r, selectRow f = some r ∧ r.build f = .ok i := by
  unfold decodeFields at h
  split at h
  next r hr => exact ⟨r, hr, h⟩
  next => cases h

theorem fields_of_decodeFields {f : Fields} {i : Instr} (h : decodeFields f = .ok i) : i.fields = f := by
  obtain ⟨r, hr, hi⟩ := selectRow_of_decodeFields h
  obtain ⟨hmem, hs⟩ := selectRow_some hr
  exact Row.keepsFields_of_mem hmem f i hs hi

/-- A term that no descriptor carries shares its fields with one that a descriptor does: its mode code lies in the
enumeration (30_encoding.md R87). -/
theorem fields_eq_of_not_wellFormed {i : Instr} (h : i.wellFormed = false) :
    ∃ j : Instr, j.wellFormed = true ∧ j.fields = i.fields := by
  cases i with
  | ditherU mode t be =>
    have hmode : mode = 0 ∨ mode = 1 ∨ mode = 2 := by
      simp only [Instr.wellFormed, decide_eq_false_iff_not] at h
      bv_omega
    rcases hmode with rfl | rfl | rfl
    · exact ⟨.ditherT t be, rfl, rfl⟩
    · exact ⟨.ditherFs t be, rfl, rfl⟩
    · exact ⟨.ditherAtk t be, rfl, rfl⟩
  | _ => cases h

/-- Of two terms with the same fields only the one a descriptor carries is decoded to. -/
theorem wellFormed_of_decodeFields {f : Fields} {i : Instr} (h : decodeFields f = .ok i) : i.wellFormed = true := by
  by_contra hwf
  obtain ⟨j, hj, hfields⟩ := fields_eq_of_not_wellFormed (Bool.eq_false_iff.mpr hwf)
  have hji : decodeFields f = .ok j := by
    rw [← fields_of_decodeFields h, ← hfields, decodeFields_fields hj]
  cases hji.symm.trans h
  exact hwf hj

/-- Settles O52: the row that is selected keeps the fields, and the fields make the descriptor. -/
theorem encodeOfDecodeIsTheDescriptor : Obligations.EncodeOfDecodeIsTheDescriptor := by
  intro d i h
  refine ⟨?_, wellFormed_of_decodeFields h⟩
  rw [encode, fields_of_decodeFields h, Fields.descriptor_ofDescriptor]

/-! ## Rows on whole descriptors -/

theorem Fields.ofDescriptor_injective : Function.Injective Fields.ofDescriptor :=
  Function.LeftInverse.injective Fields.descriptor_ofDescriptor

theorem Fields.ofDescriptor_and (d e : Descriptor) : Fields.ofDescriptor (d &&& e) =
    ⟨(ofDescriptor d).opc &&& (ofDescriptor e).opc, (ofDescriptor d).a &&& (ofDescriptor e).a,
      (ofDescriptor d).b &&& (ofDescriptor e).b, (ofDescriptor d).c &&& (ofDescriptor e).c,
      (ofDescriptor d).p &&& (ofDescriptor e).p, (ofDescriptor d).q &&& (ofDescriptor e).q⟩ := by
  simp [ofDescriptor, BitVec.extractLsb'_and]

/-- The selection by fields is the one on the 96-bit numbers (30_encoding.md R83). -/
theorem Row.selects_ofDescriptor_iff (r : Row) (d : Descriptor) :
    r.selects (Fields.ofDescriptor d) = true ↔ d &&& r.mask.descriptor = r.pattern.descriptor := by
  rw [← Fields.ofDescriptor_injective.eq_iff, Fields.ofDescriptor_and, Fields.ofDescriptor_descriptor,
    Fields.ofDescriptor_descriptor, selects_iff]
  constructor
  · rintro ⟨hopc, ha, hb, hc, hp, hq⟩
    exact Fields.eq_of_parts hopc ha hb hc hp hq
  · intro h
    rw [← h]
    exact ⟨rfl, rfl, rfl, rfl, rfl, rfl⟩

/-- Settles O50: the table is searched in its order. -/
theorem rowsAreSelectedByMaskAndMatch : Obligations.RowsAreSelectedByMaskAndMatch := by
  refine ⟨Row.selects_ofDescriptor_iff, fun d before after r htable hr hbefore => ?_⟩
  have hselect : selectRow (Fields.ofDescriptor d) = some r := by
    rw [selectRow, htable, List.find?_eq_some_iff_append]
    refine ⟨(r.selects_ofDescriptor_iff d).mpr hr, before, after, rfl, fun q hq => ?_⟩
    simpa using mt (q.selects_ofDescriptor_iff d).mp (hbefore q hq)
  exact decodeFields_of_selectRow hselect

/-- Settles O49, by evaluation of the decoder. -/
theorem writtenOutDescriptorsDecode : Obligations.WrittenOutDescriptorsDecode :=
  ⟨rfl, rfl, rfl, rfl, rfl, rfl⟩

end Sys2Proof

namespace Sys2Proof.Machine

/-! ## What the block answers -/

theorem exists_error_of_ne_ok {d : Descriptor} (h : ∀ i, decode d ≠ .ok i) : ∃ e, decode d = .error e := by
  cases hd : decode d with
  | ok i => exact absurd hd (h i)
  | error e => exact ⟨e, rfl⟩

/-- The opcodes of the opcode map's rows (30_encoding.md R83). -/
theorem fields_opc_mem (i : Instr) : i.fields.opc ∈
    [0x01#8, 0x02#8, 0x10#8, 0x11#8, 0x20#8, 0x30#8, 0x31#8, 0x32#8, 0x33#8, 0x40#8] := by
  cases i <;> simp [Instr.fields]

/-- The opcode of RDCSR is that of no other command, and its operand is a register's number (40_source_and_system.md
R111). -/
theorem exists_csr_number_of_opc {i : Instr} (h : i.fields.opc = 0x02#8) : ∃ n : Csr, n.number = i.fields.a := by
  cases i with
  | rdcsr n => exact ⟨n, rfl⟩
  | _ => simp [Instr.fields] at h

theorem exists_row_of_decode {d : Descriptor} {i : Instr} (h : decode d = .ok i) :
    ∃ r ∈ opcodeTable, d &&& r.mask.descriptor = r.pattern.descriptor := by
  obtain ⟨r, hr, -⟩ := selectRow_of_decodeFields h
  obtain ⟨hmem, hs⟩ := selectRow_some hr
  exact ⟨r, hmem, (r.selects_ofDescriptor_iff d).mp hs⟩

/-- Settles O2: a descriptor that decoded would be its command's, which is illegal in none of the three ways. -/
theorem illegalDescriptorAnswersIllegalCommand : Obligations.IllegalDescriptorAnswersIllegalCommand := by
  intro s d rest hf hh hillegal
  have hne : ∀ i, decode d ≠ .ok i := by
    intro i hd
    have hfields : i.fields = Fields.ofDescriptor d := fields_of_decodeFields hd
    rcases hillegal with hopc | hrow | ⟨hopc, hcsr⟩
    · have hmem := fields_opc_mem i
      rw [hfields] at hmem
      exact hopc hmem
    · obtain ⟨r, hr, hd'⟩ := exists_row_of_decode hd
      exact hrow r hr hd'
    · obtain ⟨n, hn⟩ := exists_csr_number_of_opc ((congrArg Fields.opc hfields).trans hopc)
      exact hcsr n (hn.trans (congrArg Fields.a hfields))
  obtain ⟨e, he⟩ := exists_error_of_ne_ok hne
  exact (step_of_command hf hh).trans (runDescriptor_of_error he)

/-- Settles O14: the two endings that answer give one response each. -/
theorem everyAnsweredCommandGivesOneResponse : Obligations.EveryAnsweredCommandGivesOneResponse := by
  intro i s t h
  cases exec_ending i s with
  | error c answer code =>
    rw [answer] at h
    cases h
    exact ⟨rfl, c, 0, rfl, fun _ => rfl⟩
  | ok u d answer observed host inputs src gray bmp out acc valid =>
    rw [answer] at h
    cases h
    exact ⟨host, .ok, d, congrArg (· ++ _) observed, fun hc => absurd rfl hc⟩
  | fatalStop x y command valid outside answer => rw [answer] at h; cases h
  | refused m command gfx answer => rw [answer] at h; cases h

/-! ## The RasterCommand read back -/

section
variable (tag : Tag) (m : PrintMode) (F wb h : Nat) (payload : List Byte)

/-- What follows the tag. -/
theorem drop_rasterCommand : (rasterCommand tag m F wb h payload).drop tag.bytes.length =
    m.code :: (leBytes F wb ++ (leBytes F h ++ payload)) := by
  simp [rasterCommand]

/-- What follows the mode byte and `k` more. -/
theorem drop_rasterCommand_add (k : Nat) : (rasterCommand tag m F wb h payload).drop (tag.bytes.length + 1 + k) =
    (leBytes F wb ++ (leBytes F h ++ payload)).drop k := by
  rw [← List.drop_drop, ← List.drop_drop, drop_rasterCommand, List.drop_one, List.tail_cons]

end

/-- Settles O48: each part is found at its place, and a number that fits its field is the value of its bytes. -/
theorem rasterCommandIsReadBack : Obligations.RasterCommandIsReadBack := by
  intro tag m F wb h payload hwb hh hlen
  have hlength : (rasterCommand tag m F wb h payload).length = tag.bytes.length + 1 + 2 * F + wb * h := by
    rw [rasterCommand_length, rasterCommandLength, hlen]
  refine ⟨?_, hlength⟩
  have htag : (rasterCommand tag m F wb h payload).take tag.bytes.length = tag.bytes := by simp [rasterCommand]
  have hwidth : (rasterCommand tag m F wb h payload).drop (tag.bytes.length + 1) =
      leBytes F wb ++ (leBytes F h ++ payload) := drop_rasterCommand_add tag m F wb h payload 0
  have hheight : (rasterCommand tag m F wb h payload).drop (tag.bytes.length + 1 + F) = leBytes F h ++ payload := by
    rw [drop_rasterCommand_add, List.drop_left' (leBytes_length F wb)]
  have hpayload : (rasterCommand tag m F wb h payload).drop (tag.bytes.length + 1 + 2 * F) = payload := by
    rw [drop_rasterCommand_add, two_mul, ← List.drop_drop, List.drop_left' (leBytes_length F wb),
      List.drop_left' (leBytes_length F h)]
  simp only [readRasterCommand, drop_rasterCommand, hwidth, hheight, hpayload, htag, hlength,
    List.take_left' (leBytes_length F wb), List.take_left' (leBytes_length F h), leValue_leBytes hwb,
    leValue_leBytes hh]
  simp [hlen]

end Sys2Proof.Machine
end

section
/-! PROOFS, family 40_source_and_system.md. What SRC_DEF leaves behind when the image fits, and what RDCSR answers for a
register that has a value and for one that has none. -/

namespace Sys2Proof.Machine

variable {s : State}

/-! ## SRC_DEF -/

theorem exec_srcDef_of_fits {fmt : PixelFormat} {w h : Word}
    (fits : Fits (w.toNat * h.toNat * channels fmt) s.params.srcCap) :
    exec (.srcDef fmt w h) s = .next ((s.defineSource fmt w h).respondNat (w.toNat * h.toNat * channels fmt)) := by
  rcases execSrcDef_cases fmt w h s with ⟨exceeded, -⟩ | ⟨-, answer⟩
  · exact absurd fits (not_fits_iff.mpr exceeded)
  · exact answer

/-- A number is answered with `OK`; only one that does not fit the response costs a draw (30_encoding.md R92, log 8). -/
theorem respondNat_answer (u : State) (n : Nat) : ∃ d : DWord,
    u.respondNat n = { u with draws := (u.respondNat n).draws, observed := u.observed ++ [.response .ok d] } ∧
      (n < 2 ^ 64 → d.toNat = n ∧ (u.respondNat n).draws = u.draws) := by
  rcases Nat.lt_or_ge n (2 ^ 64) with hn | hn
  · rw [State.respondNat_of_lt u hn]
    exact ⟨BitVec.ofNat 64 n, rfl, fun _ => ⟨Nat.mod_eq_of_lt hn, rfl⟩⟩
  · rw [State.respondNat_of_le u hn]
    exact ⟨u.drawn 64, rfl, fun fits => absurd fits (Nat.not_lt.mpr hn)⟩

/-- A buffer that lists no byte reads as unwritten everywhere. -/
theorem byteAt_of_memOf_nil {b : Buffer} (h : s.memOf b = []) (a : Nat) : s.byteAt b a = s.unlistedByte b a := by
  rw [State.byteAt, h]
  rfl

/-- Settles O25: the declared SRC lists no byte, so each of its bytes is the draw of the new number; the answer touches
neither. -/
theorem srcDefDeclaresTheImage : Obligations.SrcDefDeclaresTheImage := by
  intro s fmt w h n fits
  obtain ⟨d, answer, small⟩ := respondNat_answer (s.defineSource fmt w h) n
  have epoch : ((s.defineSource fmt w h).respondNat n).srcEpoch = s.srcEpoch + 1 := State.respondNat_srcEpoch _ n
  have unwritten : ((s.defineSource fmt w h).respondNat n).memOf .src = [] :=
    congrArg SrcBuffer.mem (State.respondNat_src _ n)
  refine ⟨(s.defineSource fmt w h).respondNat n, d, exec_srcDef_of_fits fits, ?_, small, ?_,
    byteAt_of_memOf_nil unwritten⟩
  · rw [epoch]
    exact answer
  · rw [epoch]
    exact Nat.lt_succ_self s.srcEpoch

/-! ## RDCSR -/

theorem exec_rdcsr_of_some {n : Csr} {v : DWord} (h : s.csr n = some v) : exec (.rdcsr n) s = .next (s.respond v) := by
  show execRdcsr n s = _
  rw [execRdcsr, h]

theorem exec_rdcsr_of_none {n : Csr} (h : s.csr n = none) :
    exec (.rdcsr n) s = .next (s.respondFree (csrBits n)) := by
  show execRdcsr n s = _
  rw [execRdcsr, h]

/-- RDCSR answers the number `v`, which fits the response, and changes nothing else. -/
def ReadsNat (s : State) (n : Csr) (v : Nat) : Prop :=
  v < 2 ^ 64 ∧ exec (.rdcsr n) s = .next (s.respond (BitVec.ofNat 64 v))

/-- RDCSR answers some number of `bits` bits, takes a draw and changes nothing else. -/
def ReadsDraw (s : State) (n : Csr) (bits : Nat) : Prop :=
  ∃ v, v < 2 ^ bits ∧ exec (.rdcsr n) s = .next ({ s with draws := s.draws + 1 }.respond (BitVec.ofNat 64 v))

/-- A register of at most 64 bits is answered zero-extended (40_source_and_system.md R111). -/
theorem readsNat_of_setWidth {n : Csr} {k : Nat} {v : BitVec k} (hk : k ≤ 64) (h : s.csr n = some (v.setWidth 64)) :
    ReadsNat s n v.toNat := by
  refine ⟨v.isLt.trans_le (Nat.pow_le_pow_right Nat.two_pos hk), ?_⟩
  rw [BitVec.ofNat_toNat]
  exact exec_rdcsr_of_some h

theorem readsNat_of_flag {n : Csr} {b : Bool} (h : s.csr n = some (if b then 1 else 0)) :
    ReadsNat s n (if b then 1 else 0) := by
  cases b with
  | false | true => exact ⟨by decide, exec_rdcsr_of_some h⟩

/-- A register without a value answers a draw no wider than itself (10_state.md R36, log 5). -/
theorem readsDraw_of_none {n : Csr} (h : s.csr n = none) : ReadsDraw s n (csrBits n) :=
  ⟨_, Nat.mod_lt _ (Nat.two_pow_pos _), exec_rdcsr_of_none h⟩

/-- SRC_FMT is answered as the code of the format (30_encoding.md R89). -/
theorem readsNat_srcFmt (valid : s.src.valid = true) :
    ReadsNat s .srcFmt (match s.src.fmt with | .gray8 => 0 | .rgb888 => 1) := by
  have code : ReadsNat s .srcFmt s.src.fmt.code.toNat := readsNat_of_setWidth (by decide) (if_pos valid)
  cases hfmt : s.src.fmt with
  | gray8 | rgb888 =>
    rw [hfmt] at code
    exact code

theorem readsNat_outLen (valid : s.out.valid = true) : ReadsNat s .outLen s.out.len.toNat := by
  refine readsNat_of_setWidth (Nat.le_refl 64) ?_
  rw [BitVec.setWidth_eq]
  exact if_pos valid

/-- A register that shows a descriptor answers a draw while its buffer is nil. -/
theorem readsDraw_of_nil (n : Csr) {valid : Bool} {v : Option DWord} (nil : valid = false)
    (h : s.csr n = if valid then v else none) : ReadsDraw s n (csrBits n) :=
  readsDraw_of_none (h.trans (if_neg (ne_true_of_eq_false nil)))

/-- Settles O26, register by register: a word or a flag is answered as its number, a nil buffer's register as a draw. -/
theorem rdcsrReadsTheRegister : Obligations.RdcsrReadsTheRegister := by
  intro s
  have word {n : Csr} {v : Word} (h : s.csr n = some (v.setWidth 64)) : ReadsNat s n v.toNat :=
    readsNat_of_setWidth (by decide) h
  refine ⟨word rfl, readsNat_of_flag rfl, readsNat_of_flag rfl, readsNat_of_flag rfl, readsNat_of_flag rfl,
    readsNat_of_flag rfl, ?src, ?gray, ?bmp, readsNat_outLen, ?srcNil, ?grayNil, ?bmpNil, ?outNil⟩
  case src => exact fun valid => ⟨word (if_pos valid), word (if_pos valid), readsNat_srcFmt valid⟩
  case gray => exact fun valid => ⟨word (if_pos valid), word (if_pos valid)⟩
  case bmp => exact fun valid => ⟨word (if_pos valid), word (if_pos valid), word (if_pos valid)⟩
  case srcNil => exact fun nil =>
    ⟨readsDraw_of_nil .srcW nil rfl, readsDraw_of_nil .srcH nil rfl, readsDraw_of_nil .srcFmt nil rfl⟩
  case grayNil => exact fun nil => ⟨readsDraw_of_nil .grayW nil rfl, readsDraw_of_nil .grayH nil rfl⟩
  case bmpNil => exact fun nil =>
    ⟨readsDraw_of_nil .bmpW nil rfl, readsDraw_of_nil .bmpH nil rfl, readsDraw_of_nil .bmpStride nil rfl⟩
  case outNil => exact fun nil => readsDraw_of_nil .outLen nil rfl

end Sys2Proof.Machine
end

section
/-! PROOFS, family 41_grayscale.md. The luminance as a number, and what GRAY leaves behind when its result fits. -/

namespace Sys2Proof.Machine

variable {s : State}

/-! ## Luminance -/

/-- The weights sum to 65536, so the rounded sum is at most `255 * 65536 + 32768` (41_grayscale.md R121). -/
theorem luma_sum_lt (r g b : Byte) : 19595 * r.toNat + 38470 * g.toNat + 7471 * b.toNat + 32768 < 2 ^ 24 := by
  have hr := r.isLt
  have hg := g.isLt
  have hb := b.isLt
  omega

/-- The quotient fits its byte, so nothing is lost in `luma`. -/
theorem luma_toNat (r g b : Byte) :
    (luma r g b).toNat = (19595 * r.toNat + 38470 * g.toNat + 7471 * b.toNat + 32768) / 65536 := by
  rw [luma, BitVec.toNat_ofNat]
  exact Nat.mod_eq_of_lt (Nat.div_lt_of_lt_mul (luma_sum_lt r g b))

theorem luma_self (v : Byte) : luma v v v = v := by
  apply BitVec.eq_of_toNat_eq
  rw [luma_toNat]
  omega

/-- Settles O27: the formula from the bound on its sum, equal channels from the sum of the weights, the vectors by
evaluation. -/
theorem luminanceIsTheRoundedWeightedMean : Obligations.LuminanceIsTheRoundedWeightedMean :=
  ⟨fun r g b => ⟨luma_toNat r g b, luma_sum_lt r g b⟩, luma_self, by decide, by decide, by decide, by decide, by decide,
    by decide⟩

/-! ## GRAY -/

theorem exec_gray_of_fits (image : s.srcHoldsImage) (fits : Fits (s.src.w.toNat * s.src.h.toNat) s.params.grayCap) :
    exec .gray s = .next (s.normalized.respond (BitVec.ofNat 64 (dims s.src.w.toNat s.src.h.toNat))) := by
  rcases execGray_cases s with ⟨unusable, -⟩ | ⟨-, exceeded, -⟩ | ⟨-, -, answer⟩
  · exact absurd unusable (ne_true_of_eq_false (srcHoldsImage_iff.mp image))
  · exact absurd fits (not_fits_iff.mpr exceeded)
  · exact answer

theorem graySamples_getD {fmt : PixelFormat} {S : List Byte} {n p : Nat} (hp : p < n) :
    (graySamples fmt S n).getD p 0 = graySample fmt S p := by
  simp [graySamples, hp]

/-- The row-major number of a pixel inside the image (20_memory.md R51, R52). -/
theorem pixelNumber_lt {w h x y : Nat} (hx : x < w) (hy : y < h) : y * w + x < w * h := by
  rw [Nat.mul_comm y, Nat.add_comm]
  exact Nat.add_mul_lt_mul_of_lt_of_lt hx hy

section
variable {p : Nat} (canonical : s.memoriesCanonical) (hp : p < s.src.w.toNat * s.src.h.toNat)
include canonical hp

/-- A GRAY8 sample is the source byte of its pixel (41_grayscale.md R122). -/
theorem graySample_gray8 (fmt : s.src.fmt = .gray8) : graySample .gray8 (s.contents .src) p = s.byteAt .src p := by
  have size : s.sizeOf .src = s.src.w.toNat * s.src.h.toNat * 1 :=
    congrArg (s.src.w.toNat * s.src.h.toNat * channels ·) fmt
  exact contents_getD (memOf_rising canonical .src) (by omega)

/-- An RGB888 sample is the luminance of the three interleaved bytes of its pixel (41_grayscale.md R121). -/
theorem graySample_rgb888 (fmt : s.src.fmt = .rgb888) : graySample .rgb888 (s.contents .src) p =
    luma (s.byteAt .src (p * 3)) (s.byteAt .src (p * 3 + 1)) (s.byteAt .src (p * 3 + 2)) := by
  have size : s.sizeOf .src = s.src.w.toNat * s.src.h.toNat * 3 :=
    congrArg (s.src.w.toNat * s.src.h.toNat * channels ·) fmt
  have byte {k : Nat} (hk : k < s.sizeOf .src) : (s.contents .src).getD k 0 = s.byteAt .src k :=
    contents_getD (memOf_rising canonical .src) hk
  rw [graySample, byte (by omega), byte (by omega), byte (by omega)]

end

/-- A pixel of the new GRAY is its sample of the old SRC. -/
theorem byteAt_normalized {p : Nat} (hp : p < s.src.w.toNat * s.src.h.toNat) :
    s.normalized.byteAt .gray p = graySample s.src.fmt (s.contents .src) p :=
  Memory.read_ofBytes_zero.trans (graySamples_getD hp)

/-- Settles O28: GRAY answers the normalized state, whose samples are read format by format; the response leaves the
buffers alone. -/
theorem grayConvertsEveryPixel : Obligations.GrayConvertsEveryPixel := by
  intro s canonical image fits
  refine ⟨_, exec_gray_of_fits image fits, rfl, rfl, rfl, rfl, fun x y hx hy => ?_⟩
  have hp : y * s.src.w.toNat + x < s.src.w.toNat * s.src.h.toNat := pixelNumber_lt hx hy
  refine (byteAt_normalized hp).trans ?_
  cases fmt : s.src.fmt with
  | gray8 => exact graySample_gray8 canonical hp fmt
  | rgb888 => exact graySample_rgb888 canonical hp fmt

end Sys2Proof.Machine
end

section
/-! PROOFS, family 42_resampler.md. What a RESAMPLE answers when it passes the image through and when it scales, and the
samples of `BILINEAR` as numbers. -/

namespace Sys2Proof.Machine

variable {s : State} {buf : ImageBuffer} {tw : Word} {dh : Nat} {i : Instr}

/-! ## What a RESAMPLE answers -/

theorem exec_of_resampleTo (target : ResampleTo s buf tw dh i) : exec i s = resample buf tw dh s := by
  rcases target with ⟨th, rfl, rfl⟩ | ⟨rfl, rfl⟩
  · rfl
  · rfl

/-- A target height fits its register: an explicit one is a register's value, an aspect height is at most the source's
(42_resampler.md R131). -/
theorem height_lt_of_resampleTo (target : ResampleTo s buf tw dh i) (narrower : tw.toNat < (s.imageW buf).toNat) :
    dh < 2 ^ 32 := by
  rcases target with ⟨th, -, rfl⟩ | ⟨-, rfl⟩
  · exact th.isLt
  · exact (aspectHeight_le narrower).trans_lt (s.imageH buf).isLt

/-- The checks before the pass-through are over for a usable image and a target width that is not 0 (42_resampler.md
R133). -/
theorem not_invalid_of_holdsImage (image : s.holdsImage buf) (width : tw ≠ 0) :
    ¬(s.imageUnusable buf = true ∨ tw.toNat = 0) := by
  rintro (unusable | zero)
  · exact ne_true_of_eq_false (holdsImage_iff.mp image) unusable
  · exact width (word_toNat_eq_zero.mp zero)

theorem resample_of_wide (image : s.holdsImage buf) (width : tw ≠ 0) (wide : (s.imageW buf).toNat ≤ tw.toNat) :
    resample buf tw dh s = .next (s.respond (BitVec.ofNat 64 (dims (s.imageW buf).toNat (s.imageH buf).toNat))) := by
  rcases resample_cases buf tw dh s with ⟨invalid, -⟩ | ⟨-, -, -, answer⟩ | ⟨-, -, narrower, -⟩ | ⟨-, -, narrower, -⟩
  · exact absurd invalid (not_invalid_of_holdsImage image width)
  · exact answer
  · exact absurd narrower (Nat.not_lt.mpr wide)
  · exact absurd narrower (Nat.not_lt.mpr wide)

/-- Settles O29: both forms are `resample`, which does not look at the height of a wide target. -/
theorem resamplePassesThroughWideTargets : Obligations.ResamplePassesThroughWideTargets :=
  fun _ _ _ _ image width wide => ⟨resample_of_wide image width wide, resample_of_wide image width wide⟩

theorem exec_resample_of_fits (target : ResampleTo s buf tw dh i) (image : s.holdsImage buf) (width : tw ≠ 0)
    (narrower : tw.toNat < (s.imageW buf).toNat) (fits : Fits (tw.toNat * dh * s.imageChannels buf) (s.imageCap buf)) :
    exec i s = .next ((s.resampled buf tw dh).respond (BitVec.ofNat 64 (dims tw.toNat dh))) := by
  have hdims : dims tw.toNat dh < 2 ^ 64 := by
    have htw := tw.isLt
    have hdh := height_lt_of_resampleTo target narrower
    unfold dims
    omega
  rw [exec_of_resampleTo target]
  rcases resample_cases buf tw dh s with ⟨invalid, -⟩ | ⟨-, -, wide, -⟩ | ⟨-, -, -, exceeded, -⟩ | ⟨-, -, -, -, answer⟩
  · exact absurd invalid (not_invalid_of_holdsImage image width)
  · exact absurd narrower (Nat.not_lt.mpr wide)
  · exact absurd fits (not_fits_iff.mpr exceeded)
  · exact answer.trans (congrArg _ (State.respondNat_of_lt _ hdims))

/-! ## The image a RESAMPLE leaves -/

theorem imageW_resampled : (s.resampled buf tw dh).imageW buf = tw := by
  cases buf with
  | src | gray => exact BitVec.ofNat_toNat 32 tw

theorem imageH_resampled : (s.resampled buf tw dh).imageH buf = BitVec.ofNat 32 dh := by
  cases buf with
  | src | gray => rfl

theorem validBit_resampled : (s.resampled buf tw dh).validBit (bufferOf buf) = true := by
  cases buf with
  | src | gray => rfl

/-- Every sample of the filter is the byte at its offset (42_resampler.md R132). -/
theorem byteAt_resampled {k : Nat} (hk : k < tw.toNat * dh * s.imageChannels buf) :
    (s.resampled buf tw dh).byteAt (bufferOf buf) k =
      (filterImage s.params.filter (s.imageSamples buf) (s.imageW buf).toNat (s.imageH buf).toNat
        (s.imageChannels buf) tw.toNat dh).getD k 0 := by
  cases buf with
  | src => exact Memory.read_ofBytes_none (hk.trans_eq (filterImage_length ..).symm)
  | gray => exact Memory.read_ofBytes_zero

theorem resampled_other_kept :
    (buf = .src → (s.resampled buf tw dh).gray = s.gray ∧ (s.resampled buf tw dh).src.fmt = s.src.fmt) ∧
      (buf = .gray → (s.resampled buf tw dh).src = s.src) := by
  cases buf with
  | src => exact ⟨fun _ => ⟨rfl, rfl⟩, nofun⟩
  | gray => exact ⟨nofun, fun _ => rfl⟩

/-- A RESAMPLE touches the image buffers alone. -/
theorem resampled_frame : s.resampled buf tw dh =
    { s with src := (s.resampled buf tw dh).src, gray := (s.resampled buf tw dh).gray } := by
  cases buf with
  | src | gray => rfl

/-- Settles O30: the answer is `resampled` with its response, and a response leaves the buffers alone. -/
theorem resampleReplacesTheBuffer : Obligations.ResampleReplacesTheBuffer := by
  intro s buf tw dh i target image width narrower fits
  obtain ⟨src, gray⟩ := resampled_other_kept (s := s) (buf := buf) (tw := tw) (dh := dh)
  have height : ((s.resampled buf tw dh).imageH buf).toNat = dh :=
    calc ((s.resampled buf tw dh).imageH buf).toNat
        = (BitVec.ofNat 32 dh).toNat := congrArg _ imageH_resampled
      _ = dh := Nat.mod_eq_of_lt (height_lt_of_resampleTo target narrower)
  exact ⟨_, exec_resample_of_fits target image width narrower fits, congrArg (State.respond _) resampled_frame,
    congrArg _ imageW_resampled, height, validBit_resampled, src, gray, fun _ => byteAt_resampled⟩

/-! ## An empty image -/

theorem imageUnusable_of_height_zero (h : s.imageH buf = 0) : s.imageUnusable buf = true := by
  cases buf with
  | src => exact srcUnusable_eq_true.mpr (.inr (.inr h))
  | gray => exact grayUnusable_eq_true.mpr (.inr (.inr h))

theorem resample_of_unusable (unusable : s.imageUnusable buf = true) :
    resample buf tw dh s = .next (s.raise .invalidInput) := if_pos unusable

theorem execGray_of_unusable (unusable : s.srcUnusable = true) : execGray s = .next (s.raise .invalidInput) :=
  if_pos unusable

theorem dither_of_unusable {mode : DitherMode} {v : Byte} (unusable : s.grayUnusable = true) :
    dither mode v s = .next (s.raise .invalidInput) := if_pos unusable

theorem execDitherU_of_unusable (mode : Byte) {v : Byte} {be : Bool} (unusable : s.grayUnusable = true) :
    execDitherU mode v be s = .next (s.raise .invalidInput) := if_pos unusable

/-- Settles O33: no bytes fit every capacity, and the image left has height 0, which every consumer looks at first. -/
theorem emptyResampleResultIsRejectedLater : Obligations.EmptyResampleResultIsRejectedLater := by
  intro s buf tw i target image width narrower
  have fits : Fits (tw.toNat * 0 * s.imageChannels buf) (s.imageCap buf) := fun c _ => by simp
  have answer := exec_resample_of_fits target image width narrower fits
  rw [show dims tw.toNat 0 = tw.toNat by simp [dims]] at answer
  have unusable : ((s.resampled buf tw 0).respond (BitVec.ofNat 64 tw.toNat)).imageUnusable buf = true :=
    imageUnusable_of_height_zero imageH_resampled
  refine ⟨_, answer, congrArg _ imageW_resampled, congrArg _ imageH_resampled, validBit_resampled,
    congrArg State.observed (congrArg (State.respond _) resampled_frame), ?resample, ?gray, ?dither⟩
  case resample => exact fun _ _ => ⟨resample_of_unusable unusable, resample_of_unusable unusable⟩
  case gray =>
    rintro rfl
    exact execGray_of_unusable unusable
  case dither =>
    rintro rfl mode thr be
    exact ⟨dither_of_unusable unusable, dither_of_unusable unusable, dither_of_unusable unusable,
      execDitherU_of_unusable mode unusable⟩

/-! ## One axis of `BILINEAR` -/

/-- A destination position reads the two clamped positions after `x0` and weighs the second by the remainder, `x0` being the
quotient of the aligned centre (42_resampler.md R137). -/
theorem axisTap_spec (i : Nat) {sn dn : Nat} (hs : 0 < sn) (hd : 0 < dn) : ∃ x0 : Int,
    ((axisTap i sn dn).f : Int) < 2 * dn ∧ (2 * i + 1) * (sn : Int) - dn = x0 * (2 * dn) + (axisTap i sn dn).f ∧
      ((axisTap i sn dn).a : Int) = min (max x0 0) (sn - 1) ∧
      ((axisTap i sn dn).b : Int) = min (max (x0 + 1) 0) (sn - 1) := by
  have hD : (0 : Int) < 2 * dn := by omega
  have hquot := Int.mul_ediv_add_emod ((2 * i + 1) * (sn : Int) - dn) (2 * dn)
  have hrem := Int.emod_nonneg ((2 * i + 1) * (sn : Int) - dn) hD.ne'
  have hrem' := Int.emod_lt_of_pos ((2 * i + 1) * (sn : Int) - dn) hD
  refine ⟨((2 * i + 1) * (sn : Int) - dn) / (2 * dn), ?_⟩
  simp only [axisTap, clamp]
  rw [Int.mul_comm] at hquot
  omega

theorem axisTap_f_le (i : Nat) {sn dn : Nat} (hs : 0 < sn) (hd : 0 < dn) : (axisTap i sn dn).f ≤ 2 * dn := by
  obtain ⟨x0, hf, -⟩ := axisTap_spec i hs hd
  omega

theorem axisTap_a_lt (i : Nat) {sn dn : Nat} (hs : 0 < sn) (hd : 0 < dn) : (axisTap i sn dn).a < sn := by
  obtain ⟨x0, -, -, ha, -⟩ := axisTap_spec i hs hd
  omega

theorem axisTap_b_lt (i : Nat) {sn dn : Nat} (hs : 0 < sn) (hd : 0 < dn) : (axisTap i sn dn).b < sn := by
  obtain ⟨x0, -, -, -, hb⟩ := axisTap_spec i hs hd
  omega

/-- Halving an axis reads positions `2 * i` and `2 * i + 1` with equal weights (42_resampler.md R138 (c)). -/
theorem axisTap_half {i dn : Nat} (hi : i < dn) : axisTap i (2 * dn) dn = ⟨2 * i, 2 * i + 1, dn⟩ := by
  have hX : (2 * i + 1) * ((2 * dn : Nat) : Int) - dn = dn + 2 * i * (2 * dn) := by push_cast; ring
  have hq : ((dn : Int) + 2 * i * (2 * dn)) / (2 * dn) = 2 * i := by
    rw [Int.add_mul_ediv_right _ _ (by omega), Int.ediv_eq_zero_of_lt (by omega) (by omega), Int.zero_add]
  simp only [axisTap, clamp, hX, hq, AxisTap.mk.injEq]
  omega

/-! ## One sample of `BILINEAR` -/

/-- The weighted sum `N` of the samples `p` at `(xa, ya)`, `q` at `(xb, ya)`, `u` at `(xa, yb)` and `v` at `(xb, yb)`
(42_resampler.md R137). -/
def weightedSum (Dx Dy fx fy p q u v : Nat) : Nat :=
  (Dx - fx) * (Dy - fy) * p + fx * (Dy - fy) * q + (Dx - fx) * fy * u + fx * fy * v

/-- `N / D` rounded to nearest, halves up (42_resampler.md R137). -/
def rounded (N D : Nat) : Nat := (2 * N + D) / (2 * D)

theorem bilinearSample_eq (S : List Byte) (sw sh ch dw dh dx dy c : Nat) :
    let tx := axisTap dx sw dw
    let ty := axisTap dy sh dh
    bilinearSample S sw sh ch dw dh dx dy c = rounded (weightedSum (2 * dw) (2 * dh) tx.f ty.f
      (sampleAt S sw ch c tx.a ty.a) (sampleAt S sw ch c tx.b ty.a) (sampleAt S sw ch c tx.a ty.b)
      (sampleAt S sw ch c tx.b ty.b)) (2 * dw * (2 * dh)) := rfl

section
variable {Dx Dy fx fy p q u v : Nat} (hx : fx ≤ Dx) (hy : fy ≤ Dy)
include hx hy

theorem weightedSum_const : weightedSum Dx Dy fx fy p p p p = p * (Dx * Dy) := by
  obtain ⟨gx, rfl⟩ := Nat.exists_eq_add_of_le hx
  obtain ⟨gy, rfl⟩ := Nat.exists_eq_add_of_le hy
  simp only [weightedSum, Nat.add_sub_cancel_left]
  ring

/-- Over the integers the weights are differences as the rule writes them. -/
theorem weightedSum_cast : (weightedSum Dx Dy fx fy p q u v : Int) =
    (Dx - fx) * (Dy - fy) * p + fx * (Dy - fy) * q + (Dx - fx) * fy * u + fx * fy * v := by
  push_cast [weightedSum, hx, hy]
  rfl

end

theorem weightedSum_mono {Dx Dy fx fy p q u v p' q' u' v' : Nat} (hp : p ≤ p') (hq : q ≤ q') (hu : u ≤ u') (hv : v ≤ v') :
    weightedSum Dx Dy fx fy p q u v ≤ weightedSum Dx Dy fx fy p' q' u' v' := by
  unfold weightedSum
  gcongr

theorem rounded_mono {N M : Nat} (D : Nat) (h : N ≤ M) : rounded N D ≤ rounded M D := by
  unfold rounded
  gcongr

theorem rounded_cast (N D : Nat) : (rounded N D : Int) = (2 * N + D) / (2 * D) := by
  push_cast [rounded]
  rfl

/-- A whole number is its own rounding. -/
theorem rounded_mul {D : Nat} (k : Nat) (hD : 0 < D) : rounded (k * D) D = k := by
  rw [rounded, show 2 * (k * D) + D = D + k * (2 * D) by ring, Nat.add_mul_div_right _ _ (by omega),
    Nat.div_eq_of_lt (by omega), Nat.zero_add]

/-- A sample lies between the bounds of the four it reads (42_resampler.md R138 (a)): the same sum of four equal samples is
`D` times their value. -/
theorem bilinearSample_bounds {S : List Byte} {sw sh ch dw dh dx dy c lo hi : Nat} (hdw : 0 < dw) (hdh : 0 < dh)
    (hsw : 0 < sw) (hsh : 0 < sh)
    (reads : ∀ x y, x = (axisTap dx sw dw).a ∨ x = (axisTap dx sw dw).b →
      y = (axisTap dy sh dh).a ∨ y = (axisTap dy sh dh).b →
      lo ≤ sampleAt S sw ch c x y ∧ sampleAt S sw ch c x y ≤ hi) :
    lo ≤ bilinearSample S sw sh ch dw dh dx dy c ∧ bilinearSample S sw sh ch dw dh dx dy c ≤ hi := by
  have hx := axisTap_f_le dx hsw hdw
  have hy := axisTap_f_le dy hsh hdh
  have hD : 0 < 2 * dw * (2 * dh) := by positivity
  have hconst (k : Nat) : rounded (weightedSum (2 * dw) (2 * dh) (axisTap dx sw dw).f (axisTap dy sh dh).f k k k k)
      (2 * dw * (2 * dh)) = k := by rw [weightedSum_const hx hy, rounded_mul k hD]
  obtain ⟨loAA, hiAA⟩ := reads _ _ (.inl rfl) (.inl rfl)
  obtain ⟨loBA, hiBA⟩ := reads _ _ (.inr rfl) (.inl rfl)
  obtain ⟨loAB, hiAB⟩ := reads _ _ (.inl rfl) (.inr rfl)
  obtain ⟨loBB, hiBB⟩ := reads _ _ (.inr rfl) (.inr rfl)
  rw [bilinearSample_eq]
  constructor
  · exact (hconst lo).symm.trans_le (rounded_mono _ (weightedSum_mono loAA loBA loAB loBB))
  · exact (rounded_mono _ (weightedSum_mono hiAA hiBA hiAB hiBB)).trans_eq (hconst hi)

/-- Halving both dimensions gives every weight a quarter of `D` (42_resampler.md R138 (c)). -/
theorem bilinearSample_half {S : List Byte} {ch dw dh dx dy c : Nat} (hdx : dx < dw) (hdy : dy < dh) :
    bilinearSample S (2 * dw) (2 * dh) ch dw dh dx dy c =
      (sampleAt S (2 * dw) ch c (2 * dx) (2 * dy) + sampleAt S (2 * dw) ch c (2 * dx + 1) (2 * dy) +
        sampleAt S (2 * dw) ch c (2 * dx) (2 * dy + 1) + sampleAt S (2 * dw) ch c (2 * dx + 1) (2 * dy + 1) + 2) / 4 := by
  have hw : 2 * dw - dw = dw := by omega
  have hh : 2 * dh - dh = dh := by omega
  have hpos : 0 < 2 * dw * dh := Nat.mul_pos (by omega) (by omega)
  rw [bilinearSample_eq, axisTap_half hdx, axisTap_half hdy, ← Nat.mul_div_mul_left _ 4 hpos]
  simp only [rounded, weightedSum, hw, hh]
  congr 1 <;> ring

/-! ## The image `BILINEAR` makes -/

/-- Equally long pieces laid end to end (20_memory.md R51, R52). -/
theorem getD_flatMap_range {α : Type} {f : Nat → List α} {n m i j : Nat} (d : α) (hlen : ∀ i, (f i).length = m)
    (hi : i < n) (hj : j < m) : ((List.range n).flatMap f).getD (i * m + j) d = (f i).getD j d := by
  induction n with
  | zero => nomatch hi
  | succ n ih =>
    have hprefix : ((List.range n).flatMap f).length = n * m := by simp [List.length_flatMap, hlen]
    rw [List.range_succ, List.flatMap_append, List.flatMap_singleton]
    rcases Nat.lt_succ_iff_lt_or_eq.mp hi with hlt | rfl
    · rw [List.getD_append _ _ _ _ (by rw [hprefix, Nat.mul_comm n]; exact pixelNumber_lt hj hlt)]
      exact ih hlt
    · rw [List.getD_append_right _ _ _ _ (by omega), hprefix, Nat.add_sub_cancel_left]

section
variable {S : List Byte} {sw sh ch dw dh dx dy c : Nat}

/-- Rows, then columns, then channels (42_resampler.md R137). -/
theorem bilinear_getD (hdx : dx < dw) (hdy : dy < dh) (hc : c < ch) :
    (bilinear S sw sh ch dw dh).getD ((dy * dw + dx) * ch + c) 0 =
      BitVec.ofNat 8 (bilinearSample S sw sh ch dw dh dx dy c) := by
  have hrow : dx * ch + c < dw * ch := by
    rw [Nat.mul_comm dw]
    exact pixelNumber_lt hc hdx
  rw [show (dy * dw + dx) * ch + c = dy * (dw * ch) + (dx * ch + c) by ring, bilinear,
    getD_flatMap_range _ (by simp [List.length_flatMap]) hdy hrow, getD_flatMap_range _ (by simp) hdx hc]
  simp [hc]

/-- A sample fits its byte, so nothing is lost in `bilinear`. -/
theorem bilinearSample_lt (hdw : 0 < dw) (hdh : 0 < dh) (hsw : 0 < sw) (hsh : 0 < sh) :
    bilinearSample S sw sh ch dw dh dx dy c < 256 := by
  have bytes (x y : Nat) : sampleAt S sw ch c x y ≤ 255 := Nat.le_of_lt_succ (BitVec.isLt _)
  obtain ⟨-, upper⟩ := bilinearSample_bounds (S := S) (ch := ch) (dx := dx) (dy := dy) (c := c) hdw hdh hsw hsh
    fun x y _ _ => ⟨Nat.zero_le _, bytes x y⟩
  omega

/-- The offset of a sample inside the image (20_memory.md R51, R52). -/
theorem sampleOffset_lt {w h x y : Nat} (hx : x < w) (hy : y < h) (hc : c < ch) : (y * w + x) * ch + c < w * h * ch := by
  rw [Nat.mul_comm (w * h)]
  exact pixelNumber_lt hc (pixelNumber_lt hx hy)

theorem sampleAt_replicate {v : Byte} {x y : Nat} (hx : x < sw) (hy : y < sh) (hc : c < ch) :
    sampleAt (List.replicate (sw * sh * ch) v) sw ch c x y = v.toNat := by
  rw [sampleAt, List.getD_replicate _ (sampleOffset_lt hx hy hc)]

/-- A constant image stays constant (42_resampler.md R138 (b)): its value is both bounds. -/
theorem bilinearSample_replicate {v : Byte} (hdw : 0 < dw) (hdh : 0 < dh) (hsw : 0 < sw) (hsh : 0 < sh) (hc : c < ch) :
    bilinearSample (List.replicate (sw * sh * ch) v) sw sh ch dw dh dx dy c = v.toNat := by
  obtain ⟨lower, upper⟩ := bilinearSample_bounds (lo := v.toNat) (hi := v.toNat) hdw hdh hsw hsh fun x y hx hy => by
    have hx' : x < sw := by
      rcases hx with rfl | rfl
      · exact axisTap_a_lt dx hsw hdw
      · exact axisTap_b_lt dx hsw hdw
    have hy' : y < sh := by
      rcases hy with rfl | rfl
      · exact axisTap_a_lt dy hsh hdh
      · exact axisTap_b_lt dy hsh hdh
    have value := sampleAt_replicate (v := v) hx' hy' hc
    exact ⟨value.ge, value.le⟩
  exact Nat.le_antisymm upper lower

theorem bilinear_replicate (v : Byte) (hdw : 0 < dw) (hsw : 0 < sw) (hsh : 0 < sh) :
    bilinear (List.replicate (sw * sh * ch) v) sw sh ch dw dh = List.replicate (dw * dh * ch) v := by
  refine List.eq_replicate_iff.mpr ⟨bilinear_length .., fun b hb => ?_⟩
  simp only [bilinear, List.mem_flatMap, List.mem_map, List.mem_range] at hb
  obtain ⟨dy, hdy, dx, hdx, c, hc, rfl⟩ := hb
  rw [bilinearSample_replicate hdw (Nat.zero_lt_of_lt hdy) hsw hsh hc, BitVec.ofNat_toNat, BitVec.setWidth_eq]

end

/-- Settles O32: its three parts are the bounds, the constant image and the halving. -/
theorem bilinearPropertiesHold : Obligations.BilinearPropertiesHold :=
  ⟨fun _ _ _ _ _ _ _ _ _ _ _ hdw hdh hsw hsh reads => bilinearSample_bounds hdw hdh hsw hsh reads,
    fun v _ _ _ _ _ hdw narrower hsh => bilinear_replicate v hdw (Nat.zero_lt_of_lt narrower) hsh,
    fun _ _ _ _ _ _ _ hdx hdy => bilinearSample_half hdx hdy⟩

/-! ## The samples of a RESAMPLE -/

theorem imageW_pos (image : s.holdsImage buf) : 0 < (s.imageW buf).toNat := by
  cases buf with
  | src | gray =>
    obtain ⟨-, width, -⟩ := image
    exact Nat.pos_of_ne_zero (mt word_toNat_eq_zero.mp width)

theorem imageH_pos (image : s.holdsImage buf) : 0 < (s.imageH buf).toNat := by
  cases buf with
  | src | gray =>
    obtain ⟨-, -, height⟩ := image
    exact Nat.pos_of_ne_zero (mt word_toNat_eq_zero.mp height)

/-- A sample of the image is the byte at its offset (20_memory.md R51, R52). -/
theorem sampleAt_imageSamples (canonical : s.memoriesCanonical) {x y c : Nat} (hx : x < (s.imageW buf).toNat)
    (hy : y < (s.imageH buf).toNat) (hc : c < s.imageChannels buf) :
    sampleAt (s.imageSamples buf) (s.imageW buf).toNat (s.imageChannels buf) c x y =
      (s.byteAt (bufferOf buf) ((y * (s.imageW buf).toNat + x) * s.imageChannels buf + c)).toNat := by
  have offset := sampleOffset_lt hx hy hc
  cases buf with
  | src => exact congrArg _ (contents_getD (memOf_rising canonical .src) offset)
  | gray => exact congrArg _ (contents_getD (memOf_rising canonical .gray) (offset.trans_eq (Nat.mul_one _)))

theorem byteAt_resampled_bilinear (bilinearFilter : s.params.filter = .bilinear) (image : s.holdsImage buf)
    {dx dy c : Nat} (hdx : dx < tw.toNat) (hdy : dy < dh) (hc : c < s.imageChannels buf) :
    ((s.resampled buf tw dh).byteAt (bufferOf buf) ((dy * tw.toNat + dx) * s.imageChannels buf + c)).toNat =
      bilinearSample (s.imageSamples buf) (s.imageW buf).toNat (s.imageH buf).toNat (s.imageChannels buf)
        tw.toNat dh dx dy c := by
  rw [byteAt_resampled (sampleOffset_lt hdx hdy hc), bilinearFilter, filterImage, bilinear_getD hdx hdy hc]
  exact Nat.mod_eq_of_lt (bilinearSample_lt (Nat.zero_lt_of_lt hdx) (Nat.zero_lt_of_lt hdy) (imageW_pos image)
    (imageH_pos image))

/-- Settles O31: the sample as a sum over the integers, each sample it reads a source byte, at the clamped positions of the
two axes. -/
theorem bilinearSamplesFollowTheFormula : Obligations.BilinearSamplesFollowTheFormula := by
  intro s t buf tw dh i target canonical image width narrower fits bilinearFilter answer sw sh dw ch dx dy c hdx hdy hc
  have hdw := Nat.zero_lt_of_lt hdx
  have hdh := Nat.zero_lt_of_lt hdy
  have hsw := imageW_pos image
  have hsh := imageH_pos image
  cases (exec_resample_of_fits target image width narrower fits).symm.trans answer
  obtain ⟨x0, hfx, hX, hxa, hxb⟩ := axisTap_spec dx hsw hdw
  obtain ⟨y0, hfy, hY, hya, hyb⟩ := axisTap_spec dy hsh hdh
  refine ⟨x0, _, y0, _, Int.natCast_nonneg _, hfx, hX, Int.natCast_nonneg _, hfy, hY, ?_⟩
  intro xa xb ya yb at' N D
  have reads {x y : Nat} (hx : x < (s.imageW buf).toNat) (hy : y < (s.imageH buf).toNat) :
      (sampleAt (s.imageSamples buf) (s.imageW buf).toNat (s.imageChannels buf) c x y : Int) = at' x y :=
    congrArg Nat.cast (sampleAt_imageSamples canonical hx hy hc)
  have hxa' := axisTap_a_lt dx hsw hdw
  have hxb' := axisTap_b_lt dx hsw hdw
  have hya' := axisTap_a_lt dy hsh hdh
  have hyb' := axisTap_b_lt dy hsh hdh
  refine (congrArg Nat.cast (byteAt_resampled_bilinear bilinearFilter image hdx hdy hc)).trans ?_
  rw [bilinearSample_eq, rounded_cast, weightedSum_cast (axisTap_f_le dx hsw hdw) (axisTap_f_le dy hsh hdh),
    reads hxa' hya', reads hxb' hya', reads hxa' hyb', reads hxb' hyb', hxa, hxb, hya, hyb]
  rfl

end Sys2Proof.Machine
end

section
/-! PROOFS, family 43_dither.md. The codes and the states a DITHER answers; the shares of one error as a kernel of weights;
the scan, pixel by pixel, as sums that each cell gathers from the errors before it. -/

namespace Sys2Proof.Machine

variable {i : Instr} {s u : State} {mode : DitherMode} {t : Byte}

/-! ## The codes a command answers -/

/-- The error codes of each command (60_exceptions.md R231 to R235, R237; 43_dither.md R163). -/
def errorCodes : Instr → List Code
  | .srcDef _ _ _ => [.capacityExceeded]
  | .rdcsr _ => []
  | .gray => [.invalidInput, .capacityExceeded]
  | .resampleX _ _ _ => [.invalidInput, .capacityExceeded]
  | .resampleA _ _ => [.invalidInput, .capacityExceeded]
  | .ditherT _ _ => [.invalidInput, .capacityExceeded]
  | .ditherFs _ _ => [.invalidInput, .capacityExceeded]
  | .ditherAtk _ _ => [.invalidInput, .capacityExceeded]
  | .ditherU _ _ be => [.invalidInput, if be then .capacityExceeded else .unsupportedDitherMode]
  | .bmpNew _ _ => [.capacityExceeded]
  | .setPixel _ _ _ => [.invalidInput]
  | .getPixel _ _ => [.invalidInput]
  | .rasterBytes => [.invalidInput]
  | .encodeStd _ => [.invalidInput, .emptyImage, .dimensionOutOfRange, .bufferOverflow, .capacityExceeded]
  | .encodeLarge _ => [.invalidInput, .emptyImage, .dimensionOutOfRange, .bufferOverflow, .capacityExceeded]

/-- The command answers `OK`, one of the given codes, or nothing. -/
def AnswersWithin (i : Instr) (s : State) (codes : List Code) : Prop := ∀ c, Answers i s c → c = .ok ∨ c ∈ codes

section
variable {codes : List Code}

theorem AnswersWithin.of_raise {e : Code} (answer : exec i s = .next (s.raise e)) (he : e ∈ codes) :
    AnswersWithin i s codes := by
  intro c hc
  cases (answers_of_raise answer).mp hc
  exact .inr he

theorem AnswersWithin.of_respond {d : DWord} (answer : exec i s = .next (u.respond d)) (hu : u.observed = s.observed) :
    AnswersWithin i s codes := fun _ hc => .inl ((answers_of_respond answer hu).mp hc)

theorem AnswersWithin.of_respondNat {n : Nat} (answer : exec i s = .next (u.respondNat n))
    (hu : u.observed = s.observed) : AnswersWithin i s codes := by
  obtain ⟨v, d, hv, rfl | rfl⟩ := respondNat_ending u n <;>
  · rw [hv] at answer
    exact .of_respond answer hu

theorem AnswersWithin.of_not_answers (h : ∀ c, ¬Answers i s c) : AnswersWithin i s codes := fun c hc => absurd hc (h c)

end

theorem resample_answersWithin {buf : ImageBuffer} {tw : Word} {dh : Nat} (he : exec i s = resample buf tw dh s) :
    AnswersWithin i s [.invalidInput, .capacityExceeded] := by
  rcases resample_cases buf tw dh s with ⟨_, e⟩ | ⟨_, _, _, e⟩ | ⟨_, _, _, _, e⟩ | ⟨_, _, _, _, e⟩
  · exact .of_raise (he.trans e) (by simp)
  · exact .of_respond (he.trans e) rfl
  · exact .of_raise (he.trans e) (by simp)
  · exact .of_respondNat (he.trans e) (by cases buf <;> rfl)

theorem ditherImage_answersWithin (he : exec i s = ditherImage mode t s) :
    AnswersWithin i s [.invalidInput, .capacityExceeded] := by
  rcases ditherImage_cases mode t s with ⟨_, e⟩ | ⟨_, e⟩
  · exact .of_raise (he.trans e) (by simp)
  · exact .of_respond (he.trans e) rfl

theorem dither_answersWithin (he : exec i s = dither mode t s) :
    AnswersWithin i s [.invalidInput, .capacityExceeded] := by
  rcases dither_cases mode t s with ⟨_, e⟩ | ⟨_, e⟩
  · exact .of_raise (he.trans e) (by simp)
  · exact ditherImage_answersWithin (he.trans e)

theorem encode_answersWithin {m : PrintMode} {F lim : Nat} {g : Tag} (hF : F ≤ 4)
    (he : exec i s = encodeBitmap m F g lim s) : AnswersWithin i s
      [.invalidInput, .emptyImage, .dimensionOutOfRange, .bufferOverflow, .capacityExceeded] := by
  rcases encodeBitmap_cases m hF g lim s with
    ⟨_, e⟩ | ⟨_, ⟨_, e⟩ | ⟨_, ⟨_, e⟩ | ⟨_, ⟨_, e⟩ | ⟨_, ⟨_, e⟩ | ⟨_, ⟨_, e⟩ | ⟨_, e⟩⟩⟩⟩⟩⟩
  · exact .of_not_answers fun _ => not_answers_of_refused (he.trans e)
  iterate 5 · exact .of_raise (he.trans e) (by simp)
  · exact .of_respond (he.trans e) rfl

/-- Every command keeps to its own error codes. -/
theorem exec_answersWithin (i : Instr) (s : State) : AnswersWithin i s (errorCodes i) := by
  cases i with
  | srcDef fmt w h =>
    rcases execSrcDef_cases fmt w h s with ⟨_, e⟩ | ⟨_, e⟩
    · exact .of_raise e (by simp [errorCodes])
    · exact .of_respondNat e rfl
  | rdcsr n =>
    rcases execRdcsr_cases n s with ⟨_, _, e⟩ | ⟨_, e⟩
    · exact .of_respond e rfl
    · exact .of_respond (u := { s with draws := s.draws + 1 }) e rfl
  | gray =>
    rcases execGray_cases s with ⟨_, e⟩ | ⟨_, _, e⟩ | ⟨_, _, e⟩
    · exact .of_raise e (by simp [errorCodes])
    · exact .of_raise e (by simp [errorCodes])
    · exact .of_respond e rfl
  | resampleX buf tw th => exact resample_answersWithin rfl
  | resampleA buf tw => exact resample_answersWithin rfl
  | ditherT t be => exact dither_answersWithin rfl
  | ditherFs t be => exact dither_answersWithin rfl
  | ditherAtk t be => exact dither_answersWithin rfl
  | ditherU code t be =>
    rcases execDitherU_cases code t be s with ⟨_, e⟩ | ⟨_, rfl, e⟩ | ⟨_, rfl, e⟩
    · exact .of_raise e (by simp [errorCodes])
    · exact ditherImage_answersWithin e
    · exact .of_raise e (by simp [errorCodes])
  | bmpNew w h =>
    rcases execBmpNew_cases w h s with ⟨_, e⟩ | ⟨_, e⟩
    · exact .of_raise e (by simp [errorCodes])
    · exact .of_respond e rfl
  | setPixel x y black =>
    rcases execSetPixel_cases x y black s with ⟨_, e⟩ | ⟨_, _, e⟩ | ⟨_, _, e⟩
    · exact .of_raise e (by simp [errorCodes])
    · exact .of_not_answers fun _ => not_answers_of_fault e
    · exact .of_respond e rfl
  | getPixel x y =>
    rcases execGetPixel_cases x y s with ⟨_, e⟩ | ⟨_, _, e⟩ | ⟨_, _, e⟩
    · exact .of_raise e (by simp [errorCodes])
    · exact .of_not_answers fun _ => not_answers_of_fault e
    · exact .of_respond e rfl
  | rasterBytes =>
    rcases execRasterBytes_cases s with ⟨_, e⟩ | ⟨_, e⟩
    · exact .of_raise e (by simp [errorCodes])
    · exact .of_respond e rfl
  | encodeStd m => exact encode_answersWithin (by decide) rfl
  | encodeLarge m => exact encode_answersWithin (by decide) rfl

/-- Only DITHER.U without the opt-in has the code `UnsupportedDitherMode` (43_dither.md R163). -/
theorem eq_ditherU_of_mem_errorCodes (h : Code.unsupportedDitherMode ∈ errorCodes i) :
    ∃ code t, i = .ditherU code t false := by
  cases i with
  | ditherU code t be =>
    cases be with
    | false => exact ⟨code, t, rfl⟩
    | true => simp [errorCodes] at h
  | _ => simp [errorCodes] at h

/-! ## DITHER.U -/

/-- On the opt-in DITHER.U makes the checks of Threshold in its order (43_dither.md R161). -/
theorem execDitherU_optIn (code t : Byte) (s : State) : execDitherU code t true s = dither .threshold t s := by
  rcases dither_cases .threshold t s with ⟨unusable, e⟩ | ⟨usable, e⟩
  · exact (execDitherU_of_unusable code unusable).trans e.symm
  · rw [e, execDitherU, usable]
    rfl

theorem execDitherU_without_optIn (code t : Byte) (image : s.grayHoldsImage) :
    execDitherU code t false s = .next (s.raise .unsupportedDitherMode) := by
  rw [execDitherU, grayHoldsImage_iff.mp image]
  rfl

/-- Settles O21: DITHER.U by its two lemmas, `BE` in the other three by their definitions, and the code by each command's
own error codes. -/
theorem unsupportedModeFallsBackOnlyOnOptIn : Obligations.UnsupportedModeFallsBackOnlyOnOptIn := by
  refine ⟨fun code t _ s => execDitherU_optIn code t s, fun code t s => execDitherU_without_optIn code t,
    fun t b b' s => ⟨rfl, rfl, rfl⟩, fun i s answers => ?_⟩
  rcases exec_answersWithin i s _ answers with ok | error
  · nomatch ok
  · exact eq_ditherU_of_mem_errorCodes error

/-! ## What a DITHER reads -/

/-- The two states agree in what a DITHER reads: GRAY and `BMP_CAP` (43_dither.md R167). -/
def SameForDither (s s' : State) : Prop := s'.gray = s.gray ∧ s'.params.bmpCap = s.params.bmpCap

/-- How a DITHER ends in `s` and in every state that agrees with it: one error, or one scan with one answer. -/
inductive UniformEnding (i : Instr) (s : State) : Prop where
  | error (c : Code) (code : c ≠ .ok) (answer : ∀ s', SameForDither s s' → exec i s' = .next (s'.raise c))
  | ok (mode : DitherMode) (t : Byte) (d : DWord)
      (answer : ∀ s', SameForDither s s' → exec i s' = .next ((s'.dithered mode t).respond d))

theorem grayUnusable_congr {s' : State} (h : s'.gray = s.gray) : s'.grayUnusable = s.grayUnusable := by
  simp only [State.grayUnusable, State.isNil, State.validBit, h]

/-- The bitmap of a scan is a function of GRAY. -/
theorem dithered_bmp_congr {s' : State} (h : s'.gray = s.gray) : (s'.dithered mode t).bmp = (s.dithered mode t).bmp := by
  simp only [State.dithered, State.contents, State.bytesAt, State.memOf, State.unlistedByte, State.sizeOf, h]

theorem ditherImage_of_exceeds (h : exceeds (strideOf s.gray.w.toNat * s.gray.h.toNat) s.params.bmpCap = true) :
    ditherImage mode t s = .next (s.raise .capacityExceeded) := if_pos h

theorem ditherImage_of_fits (h : exceeds (strideOf s.gray.w.toNat * s.gray.h.toNat) s.params.bmpCap = false) :
    ditherImage mode t s =
      .next ((s.dithered mode t).respond (BitVec.ofNat 64 (dims s.gray.w.toNat s.gray.h.toNat))) := by
  rcases ditherImage_cases mode t s with ⟨exceeded, -⟩ | ⟨-, answer⟩
  · simp [h] at exceeded
  · exact answer

theorem dither_of_usable (usable : s.grayUnusable = false) : dither mode t s = ditherImage mode t s :=
  if_neg (ne_true_of_eq_false usable)

theorem ditherImage_uniform (he : ∀ s', SameForDither s s' → exec i s' = ditherImage mode t s') :
    UniformEnding i s := by
  cases hc : exceeds (strideOf s.gray.w.toNat * s.gray.h.toNat) s.params.bmpCap with
  | true =>
    refine .error .capacityExceeded (by decide) fun s' ⟨gray, cap⟩ =>
      (he s' ⟨gray, cap⟩).trans (ditherImage_of_exceeds ?_)
    rw [gray, cap, hc]
  | false =>
    refine .ok mode t (BitVec.ofNat 64 (dims s.gray.w.toNat s.gray.h.toNat)) fun s' ⟨gray, cap⟩ => ?_
    rw [← gray]
    refine (he s' ⟨gray, cap⟩).trans (ditherImage_of_fits ?_)
    rw [gray, cap, hc]

theorem dither_uniform (he : ∀ s', exec i s' = dither mode t s') : UniformEnding i s := by
  cases hu : s.grayUnusable with
  | true =>
    exact .error .invalidInput (by decide) fun s' ⟨gray, cap⟩ =>
      (he s').trans (dither_of_unusable ((grayUnusable_congr gray).trans hu))
  | false =>
    exact ditherImage_uniform fun s' ⟨gray, cap⟩ => (he s').trans (dither_of_usable ((grayUnusable_congr gray).trans hu))

theorem ditherU_without_optIn_uniform (code t : Byte) (s : State) : UniformEnding (.ditherU code t false) s := by
  cases hu : s.grayUnusable with
  | true =>
    exact .error .invalidInput (by decide) fun s' ⟨gray, cap⟩ =>
      execDitherU_of_unusable code ((grayUnusable_congr gray).trans hu)
  | false =>
    exact .error .unsupportedDitherMode (by decide) fun s' ⟨gray, cap⟩ =>
      execDitherU_without_optIn code t (grayHoldsImage_iff.mpr ((grayUnusable_congr gray).trans hu))

theorem exec_uniform_of_isDither (hi : IsDither i) (s : State) : UniformEnding i s := by
  rcases hi with ⟨t, be, rfl⟩ | ⟨t, be, rfl⟩ | ⟨t, be, rfl⟩ | ⟨code, t, be, rfl⟩
  · exact dither_uniform fun _ => rfl
  · exact dither_uniform fun _ => rfl
  · exact dither_uniform fun _ => rfl
  · cases be with
    | true => exact dither_uniform (execDitherU_optIn code t)
    | false => exact ditherU_without_optIn_uniform code t s

/-- Settles O40: the ending is that of both states, and of the state the command leaves, whose GRAY and `BMP_CAP` are the
same again. -/
theorem ditherDependsOnGrayAlone : Obligations.DitherDependsOnGrayAlone := by
  intro i s s' hi gray cap
  cases exec_uniform_of_isDither hi s with
  | error c code answer =>
    exact ⟨s.raise c, s'.raise c, c, 0, answer s ⟨rfl, rfl⟩, answer s' ⟨gray, cap⟩, rfl, rfl,
      fun ok => absurd ok code, fun _ => ⟨rfl, rfl⟩, (s.raise c).raise c, answer _ ⟨rfl, rfl⟩, rfl, rfl⟩
  | ok mode t d answer =>
    exact ⟨(s.dithered mode t).respond d, (s'.dithered mode t).respond d, .ok, d, answer s ⟨rfl, rfl⟩,
      answer s' ⟨gray, cap⟩, rfl, rfl, fun _ => dithered_bmp_congr gray, fun error => absurd rfl error,
      ((s.dithered mode t).respond d |>.dithered mode t).respond d, answer _ ⟨rfl, rfl⟩,
      dithered_bmp_congr (mode := mode) (t := t) (s := s) rfl, rfl⟩

/-! ## The shares of an error -/

/-- One share of a diffusion rule: `num` parts of the error for the pixel `dx` columns right and `dy` rows down. -/
structure ShareWeight where
  dx  : Int
  dy  : Int
  num : Int

/-- The weights of a mode, in the rule's order (43_dither.md R155, R156, R157). -/
def kernel : DitherMode → List ShareWeight
  | .threshold => []
  | .floydSteinberg => [⟨1, 0, 7⟩, ⟨-1, 1, 3⟩, ⟨0, 1, 5⟩, ⟨1, 1, 1⟩]
  | .atkinson => [⟨1, 0, 1⟩, ⟨2, 0, 1⟩, ⟨-1, 1, 1⟩, ⟨0, 1, 1⟩, ⟨1, 1, 1⟩, ⟨0, 2, 1⟩]

/-- The parts a mode divides an error into. -/
def divisor : DitherMode → Int
  | .threshold => 1
  | .floydSteinberg => 16
  | .atkinson => 8

/-- The share of a weight: multiplied first, then divided with truncation toward zero (43_dither.md R156, R164). -/
def ShareWeight.share (mode : DitherMode) (k : ShareWeight) (err : Int) : Int := (err * k.num).tdiv (divisor mode)

theorem errorShares_eq (mode : DitherMode) (err : Int) :
    errorShares mode err = (kernel mode).map fun k => (k.dx, k.dy, k.share mode err) := by
  cases mode <;> simp [errorShares, kernel, divisor, ShareWeight.share]

theorem ShareWeight.share_zero (mode : DitherMode) (k : ShareWeight) : k.share mode 0 = 0 := by
  simp [ShareWeight.share]

/-- Every share is aimed at a pixel later in the scan (43_dither.md R151). -/
theorem kernel_forward (mode : DitherMode) : ∀ k ∈ kernel mode, 0 < k.dx ∧ k.dy = 0 ∨ 1 ≤ k.dy := by
  cases mode <;> decide

theorem kernel_num_nonneg (mode : DitherMode) : ∀ k ∈ kernel mode, 0 ≤ k.num := by cases mode <;> decide

theorem divisor_pos (mode : DitherMode) : 0 < divisor mode := by cases mode <;> decide

/-- A mode gives away at most the whole error: 16 of 16 parts, or 6 of 8 (43_dither.md R165). -/
theorem kernel_num_sum_le (mode : DitherMode) : ((kernel mode).map ShareWeight.num).sum ≤ divisor mode := by
  cases mode <;> decide

/-- What the shares `es` of the pixel `(x, y)` give the coordinate `(x', y')` (43_dither.md R158). -/
def gained (es : List (Int × Int × Int)) (x y x' y' : Int) : Int :=
  ((es.filter fun e => x + e.1 == x' && y + e.2.1 == y').map fun e => e.2.2).sum

section
variable {es es' : List (Int × Int × Int)} {x y x' y' : Int}

theorem gained_nil : gained [] x y x' y' = 0 := rfl

theorem gained_cons (e : Int × Int × Int) : gained (e :: es) x y x' y' =
    (if x + e.1 = x' ∧ y + e.2.1 = y' then e.2.2 else 0) + gained es x y x' y' := by
  by_cases h : x + e.1 = x' ∧ y + e.2.1 = y' <;> simp [gained, h]

theorem gained_append : gained (es ++ es') x y x' y' = gained es x y x' y' + gained es' x y x' y' := by
  simp [gained]

theorem gained_eq_zero (h : ∀ e ∈ es, ¬(x + e.1 = x' ∧ y + e.2.1 = y')) : gained es x y x' y' = 0 := by
  have noneAimed : es.filter (fun e => x + e.1 == x' && y + e.2.1 == y') = [] :=
    List.filter_eq_nil_iff.mpr fun e he => by simpa using h e he
  rw [gained, noneAimed]
  rfl

theorem gained_nonneg (h : ∀ e ∈ es, 0 ≤ e.2.2) : 0 ≤ gained es x y x' y' := by
  refine List.sum_nonneg fun v hv => ?_
  obtain ⟨e, he, rfl⟩ := List.mem_map.mp hv
  exact h e (List.mem_filter.mp he).1

theorem gained_nonpos (h : ∀ e ∈ es, e.2.2 ≤ 0) : gained es x y x' y' ≤ 0 := by
  refine (List.sum_le_card_nsmul _ 0 fun v hv => ?_).trans_eq (nsmul_zero _)
  obtain ⟨e, he, rfl⟩ := List.mem_map.mp hv
  exact h e (List.mem_filter.mp he).1

end

/-! ## One cell and the shares added to it -/

/-- The row-major number tells the pixels of an image apart. -/
theorem pixelNumber_inj {w x y x' y' : Nat} (hx : x < w) (hx' : x' < w) (h : y * w + x = y' * w + x') :
    x = x' ∧ y = y' := by
  have hxx : x = x' := by
    have := congrArg (· % w) h
    simpa [Nat.mod_eq_of_lt hx, Nat.mod_eq_of_lt hx'] using this
  subst hxx
  exact ⟨rfl, Nat.eq_of_mul_eq_mul_right (Nat.zero_lt_of_lt hx) (Nat.add_right_cancel h)⟩

theorem cellAt_set_self {acc : List Int} {j : Nat} {v : Int} (hj : j < acc.length) : cellAt (acc.set j v) j = v := by
  simp [cellAt, hj]

theorem cellAt_set_of_ne {acc : List Int} {j k : Nat} {v : Int} (h : k ≠ j) :
    cellAt (acc.set j v) k = cellAt acc k := by
  simp [cellAt, List.getElem?_set_ne h.symm]

theorem cellAt_modify {acc : List Int} {j k : Nat} {v : Int} (hk : k < acc.length) :
    cellAt (acc.modify j (· + v)) k = cellAt acc k + if j = k then v else 0 := by
  by_cases h : j = k <;> simp [cellAt, h, hk]

section
variable {w h : Nat} {acc : List Int} {x' y' : Nat}

/-- A share reaches the cell of its coordinate and no other (43_dither.md R158). -/
theorem cellAt_addShare (hlen : acc.length = w * h) (hx' : x' < w) (hy' : y' < h) (X Y v : Int) :
    cellAt (addShare w h acc X Y v) (y' * w + x') =
      cellAt acc (y' * w + x') + if X = x' ∧ Y = y' then v else 0 := by
  unfold addShare
  split
  next inside =>
    obtain ⟨hX0, hXw, hY0, -⟩ := inside
    lift X to Nat using hX0
    lift Y to Nat using hY0
    have same : Y * w + X = y' * w + x' ↔ (X : Int) = x' ∧ (Y : Int) = y' := by
      refine ⟨fun e => ?_, fun ⟨hX, hY⟩ => by rw [Int.ofNat.inj hX, Int.ofNat.inj hY]⟩
      obtain ⟨rfl, rfl⟩ := pixelNumber_inj (by omega) hx' e
      exact ⟨rfl, rfl⟩
    rw [cellAt_modify (by rw [hlen]; exact pixelNumber_lt hx' hy')]
    simp only [Int.toNat_natCast, same]
  next outside =>
    have : ¬(X = x' ∧ Y = y') := by omega
    simp [this]

/-- The shares `es` of the pixel `(x, y)`, added one after the other as `diffuse` adds a mode's (43_dither.md R156). -/
def addShares (w h : Nat) (x y : Nat) (es : List (Int × Int × Int)) (acc : List Int) : List Int :=
  es.foldl (fun a e => addShare w h a (x + e.1) (y + e.2.1) e.2.2) acc

theorem diffuse_eq_addShares (mode : DitherMode) (w h x y : Nat) (err : Int) (acc : List Int) :
    diffuse mode w h x y err acc = addShares w h x y (errorShares mode err) acc := rfl

theorem addShares_length (w h x y : Nat) (es : List (Int × Int × Int)) (acc : List Int) :
    (addShares w h x y es acc).length = acc.length := by
  induction es generalizing acc with
  | nil => rfl
  | cons e es ih => exact (ih _).trans (addShare_length ..)

theorem cellAt_addShares (hlen : acc.length = w * h) (hx' : x' < w) (hy' : y' < h) (x y : Nat)
    (es : List (Int × Int × Int)) :
    cellAt (addShares w h x y es acc) (y' * w + x') = cellAt acc (y' * w + x') + gained es x y x' y' := by
  induction es generalizing acc with
  | nil => simp [addShares, gained_nil]
  | cons e es ih =>
    calc cellAt (addShares w h x y (e :: es) acc) (y' * w + x')
        = cellAt (addShare w h acc (x + e.1) (y + e.2.1) e.2.2) (y' * w + x') + gained es x y x' y' :=
          ih ((addShare_length ..).trans hlen)
      _ = cellAt acc (y' * w + x') + gained (e :: es) x y x' y' := by
          rw [cellAt_addShare hlen hx' hy', gained_cons, Int.add_assoc]

end

/-- Settles O37, share by share. -/
theorem sharesOutsideTheImageAreDropped : Obligations.SharesOutsideTheImageAreDropped :=
  fun _ _ _ x y _ _ hlen _ _ =>
    ⟨(diffuse_length ..).trans hlen, fun _ _ hx' hy' => cellAt_addShares hlen hx' hy' x y _⟩

/-! ## What Atkinson gives away -/

theorem sum_modify_add {acc : List Int} {j : Nat} {v : Int} (hj : j < acc.length) :
    (acc.modify j (· + v)).sum = acc.sum + v := by
  rw [List.modify_eq_set_getElem?, List.getElem?_eq_getElem hj]
  simp [List.sum_set', hj]

theorem inImage_eq_true {w h : Nat} {X Y : Int} : inImage w h X Y = true ↔ 0 ≤ X ∧ X < w ∧ 0 ≤ Y ∧ Y < h := by
  simp [inImage, and_assoc]

section
variable {w h : Nat} {acc : List Int}

/-- The cells gain a share that is aimed inside the image, and nothing of another (43_dither.md R158). -/
theorem addShare_sum (hlen : acc.length = w * h) (X Y v : Int) :
    (addShare w h acc X Y v).sum = acc.sum + if inImage w h X Y then v else 0 := by
  unfold addShare
  split
  next inside =>
    rw [if_pos (inImage_eq_true.mpr inside)]
    obtain ⟨hX0, hXw, hY0, hYh⟩ := inside
    exact sum_modify_add (by rw [hlen]; exact pixelNumber_lt (by omega) (by omega))
  next outside =>
    rw [if_neg (mt inImage_eq_true.mp outside), Int.add_zero]

/-- The same amount for each of several pixels. -/
theorem foldl_addShare_sum (hlen : acc.length = w * h) (v : Int) (ps : List (Int × Int)) :
    (ps.foldl (fun a p => addShare w h a p.1 p.2 v) acc).sum =
      acc.sum + (ps.countP fun p => inImage w h p.1 p.2) * v := by
  induction ps generalizing acc with
  | nil => simp
  | cons p ps ih =>
    rw [List.foldl_cons, ih ((addShare_length ..).trans hlen), addShare_sum hlen, List.countP_cons]
    split
    · push_cast
      ring
    · simp

/-- Atkinson's shares are one eighth for each neighbour (43_dither.md R157). -/
theorem errorShares_atkinson (x y err : Int) :
    (errorShares .atkinson err).map (fun e => ((x + e.1, y + e.2.1), e.2.2)) =
      (atkinsonNeighbours x y).map fun p => (p, err.tdiv 8) := by
  simp [errorShares, atkinsonNeighbours, Int.sub_eq_add_neg]

theorem diffuse_atkinson (x y : Nat) (err : Int) : diffuse .atkinson w h x y err acc =
    (atkinsonNeighbours x y).foldl (fun a p => addShare w h a p.1 p.2 (err.tdiv 8)) acc := by
  calc diffuse .atkinson w h x y err acc
      = ((errorShares .atkinson err).map fun e => (((x : Int) + e.1, (y : Int) + e.2.1), e.2.2)).foldl
          (fun a (e : (Int × Int) × Int) => addShare w h a e.1.1 e.1.2 e.2) acc := by
            rw [List.foldl_map]
            rfl
    _ = _ := by rw [errorShares_atkinson, List.foldl_map]

/-- A pixel that is none of the neighbours gains nothing. -/
theorem gained_atkinson_eq_zero {x y x' y' : Int} (err : Int) (h : (x', y') ∉ atkinsonNeighbours x y) :
    gained (errorShares .atkinson err) x y x' y' = 0 := by
  refine gained_eq_zero fun e he ⟨hx, hy⟩ => h ?_
  have aimed : ((x + e.1, y + e.2.1), e.2.2) ∈ (atkinsonNeighbours x y).map fun p => (p, err.tdiv 8) :=
    errorShares_atkinson x y err ▸ List.mem_map_of_mem he
  obtain ⟨p, hp, hpe⟩ := List.mem_map.mp aimed
  obtain ⟨rfl, -⟩ := Prod.mk.inj hpe
  rwa [hx, hy] at hp

end

/-- A quotient truncated toward zero has the sign of the dividend and gives back no more than it. -/
theorem mul_tdiv_bounds (a : Int) {d : Int} (hd : 0 < d) : min a 0 ≤ d * a.tdiv d ∧ d * a.tdiv d ≤ max a 0 := by
  have hdiv := Int.mul_tdiv_add_tmod a d
  rcases le_total 0 a with ha | ha
  · have hrem := Int.tmod_nonneg d ha
    have hquot := Int.mul_nonneg hd.le (Int.tdiv_nonneg ha hd.le)
    omega
  · have hrem := Int.tmod_nonneg d (Int.neg_nonneg.mpr ha)
    have hquot := Int.mul_nonneg hd.le (Int.tdiv_nonneg (Int.neg_nonneg.mpr ha) hd.le)
    rw [Int.neg_tmod] at hrem
    rw [Int.neg_tdiv, Int.mul_neg] at hquot
    omega

/-- Six truncated eighths are at most three quarters in magnitude, exactly that for the multiples of 8 (43_dither.md
R166). -/
theorem six_eighths (err : Int) :
    4 * |6 * err.tdiv 8| ≤ 3 * |err| ∧ (4 * |6 * err.tdiv 8| = 3 * |err| ↔ 8 ∣ err) := by
  obtain ⟨lower, upper⟩ := mul_tdiv_bounds err (d := 8) (by decide)
  have hdiv := Int.mul_tdiv_add_tmod err 8
  have hrem : 8 ∣ err ↔ err.tmod 8 = 0 := Int.dvd_iff_tmod_eq_zero
  rcases le_total 0 err with he | he
  · rw [abs_of_nonneg he, abs_of_nonneg (by omega : 0 ≤ 6 * err.tdiv 8)]
    omega
  · rw [abs_of_nonpos he, abs_of_nonpos (by omega : 6 * err.tdiv 8 ≤ 0)]
    omega

/-- Settles O39: one share for each neighbour, counted where it lies inside. -/
theorem atkinsonConservesError : Obligations.AtkinsonConservesError := by
  intro w h x y err acc hlen _ _
  refine ⟨?_, fun x' y' hx' hy' hne => ?_, six_eighths err⟩
  · rw [diffuse_atkinson, foldl_addShare_sum hlen]
  · rw [diffuse_eq_addShares, cellAt_addShares hlen hx' hy', gained_atkinson_eq_zero err hne, Int.add_zero]

/-! ## What a pixel gathers -/

/-- What the pixel `(x, y)` gathers when `F` is the error of every pixel: each weight's share of the error of the pixel it
is aimed from. -/
def gathered (mode : DitherMode) (F : Int → Int → Int) (x y : Int) : Int :=
  ((kernel mode).map fun k => k.share mode (F (x - k.dx) (y - k.dy))).sum

theorem gathered_of_zero {F : Int → Int → Int} (h : ∀ X Y, F X Y = 0) (x y : Int) : gathered mode F x y = 0 := by
  refine List.sum_eq_zero fun v hv => ?_
  obtain ⟨k, -, rfl⟩ := List.mem_map.mp hv
  rw [h, ShareWeight.share_zero]

theorem gathered_congr {F G : Int → Int → Int} {x y : Int}
    (h : ∀ k ∈ kernel mode, F (x - k.dx) (y - k.dy) = G (x - k.dx) (y - k.dy)) :
    gathered mode F x y = gathered mode G x y :=
  congrArg List.sum (List.map_congr_left fun k hk => congrArg (k.share mode) (h k hk))

/-- The error `e` of one more pixel `(x, y)` adds to what `(x', y')` gathers the shares that `(x, y)` aims at it. -/
theorem gathered_update {F G : Int → Int → Int} {x y e : Int} (x' y' : Int) (old : F x y = 0)
    (new : ∀ X Y, G X Y = if X = x ∧ Y = y then e else F X Y) :
    gathered mode G x' y' = gathered mode F x' y' + gained (errorShares mode e) x y x' y' := by
  rw [errorShares_eq, gathered, gathered]
  induction kernel mode with
  | nil => rfl
  | cons k ks ih =>
    have share : k.share mode (G (x' - k.dx) (y' - k.dy)) = k.share mode (F (x' - k.dx) (y' - k.dy)) +
        if x + k.dx = x' ∧ y + k.dy = y' then k.share mode e else 0 := by
      rw [new]
      by_cases aimed : x + k.dx = x' ∧ y + k.dy = y'
      · obtain ⟨rfl, rfl⟩ := aimed
        simp [old, ShareWeight.share_zero]
      · rw [if_neg (by omega), if_neg aimed, Int.add_zero]
    rw [List.map_cons, List.map_cons, List.map_cons, List.sum_cons, List.sum_cons, gained_cons, ih, share]
    ring

/-- The share of a bounded error is bounded by its part of the bounds. -/
theorem ShareWeight.share_bounds {k : ShareWeight} (hk : 0 ≤ k.num) {lo hi e : Int} (hlo : lo ≤ 0) (hhi : 0 ≤ hi)
    (he : lo ≤ e ∧ e ≤ hi) :
    lo * k.num ≤ divisor mode * k.share mode e ∧ divisor mode * k.share mode e ≤ hi * k.num := by
  obtain ⟨lower, upper⟩ := mul_tdiv_bounds (e * k.num) (divisor_pos mode)
  constructor
  · exact (le_min (Int.mul_le_mul_of_nonneg_right he.1 hk) (Int.mul_nonpos_of_nonpos_of_nonneg hlo hk)).trans lower
  · exact upper.trans (max_le (Int.mul_le_mul_of_nonneg_right he.2 hk) (Int.mul_nonneg hhi hk))

theorem ShareWeight.share_nonneg {k : ShareWeight} (hk : 0 ≤ k.num) {e : Int} (he : 0 ≤ e) : 0 ≤ k.share mode e :=
  Int.tdiv_nonneg (Int.mul_nonneg he hk) (divisor_pos mode).le

theorem ShareWeight.share_nonpos {k : ShareWeight} (hk : 0 ≤ k.num) {e : Int} (he : e ≤ 0) : k.share mode e ≤ 0 := by
  obtain ⟨-, upper⟩ := ShareWeight.share_bounds (mode := mode) hk he le_rfl ⟨le_rfl, he⟩
  rw [Int.zero_mul] at upper
  exact nonpos_of_mul_nonpos_right upper (divisor_pos mode)

/-- What is gathered of bounded errors keeps the bounds, since the weights add up to at most one (43_dither.md R165). -/
theorem gathered_bounds {F : Int → Int → Int} {lo hi : Int} (hlo : lo ≤ 0) (hhi : 0 ≤ hi)
    (hF : ∀ X Y, lo ≤ F X Y ∧ F X Y ≤ hi) (x y : Int) :
    lo ≤ gathered mode F x y ∧ gathered mode F x y ≤ hi := by
  have hd := divisor_pos mode
  have hsum := kernel_num_sum_le mode
  have scaled : ((kernel mode).map fun k => divisor mode * k.share mode (F (x - k.dx) (y - k.dy))).sum =
      divisor mode * gathered mode F x y := List.sum_map_mul_left ..
  constructor
  · refine le_of_mul_le_mul_left ?_ hd
    calc divisor mode * lo
        = lo * divisor mode := Int.mul_comm ..
      _ ≤ lo * ((kernel mode).map ShareWeight.num).sum := Int.mul_le_mul_of_nonpos_left hlo hsum
      _ = ((kernel mode).map fun k => lo * k.num).sum := (List.sum_map_mul_left ..).symm
      _ ≤ ((kernel mode).map fun k => divisor mode * k.share mode (F (x - k.dx) (y - k.dy))).sum :=
          List.sum_le_sum fun k hk => (ShareWeight.share_bounds (kernel_num_nonneg mode _ hk) hlo hhi (hF _ _)).1
      _ = divisor mode * gathered mode F x y := scaled
  · refine le_of_mul_le_mul_left ?_ hd
    calc divisor mode * gathered mode F x y
        = ((kernel mode).map fun k => divisor mode * k.share mode (F (x - k.dx) (y - k.dy))).sum := scaled.symm
      _ ≤ ((kernel mode).map fun k => hi * k.num).sum :=
          List.sum_le_sum fun k hk => (ShareWeight.share_bounds (kernel_num_nonneg mode _ hk) hlo hhi (hF _ _)).2
      _ = hi * ((kernel mode).map ShareWeight.num).sum := List.sum_map_mul_left ..
      _ ≤ hi * divisor mode := Int.mul_le_mul_of_nonneg_left hsum hhi
      _ = divisor mode * hi := Int.mul_comm ..

/-- Nothing is aimed at a pixel that the scan has reached (43_dither.md R151). -/
theorem gained_eq_zero_of_reached {w x y x' y' : Nat} (hx : x < w)
    (h : y' * w + x' ≤ y * w + x) (err : Int) :
    gained (errorShares mode err) x y x' y' = 0 := by
  refine gained_eq_zero fun e he ⟨hX, hY⟩ => ?_
  rw [errorShares_eq] at he
  obtain ⟨k, hk, rfl⟩ := List.mem_map.mp he
  dsimp only at hX hY
  rcases kernel_forward mode _ hk with ⟨right, level⟩ | below
  · obtain rfl : y = y' := by omega
    omega
  · have : (y + 1) * w ≤ y' * w := Nat.mul_le_mul_right w (by omega)
    rw [Nat.add_mul] at this
    omega

/-! ## The scan, pixel by pixel -/

theorem quantized_isBlack (old : Int) : quantized (isBlack old t) = if old ≤ t.toNat then 0 else 255 := by
  simp [quantized, isBlack]

theorem quantized_bounds (b : Bool) : 0 ≤ quantized b ∧ quantized b ≤ 255 := by cases b <;> decide

theorem scanOrder_getD {w h x y : Nat} (hx : x < w) (hy : y < h) : (scanOrder w h).getD (y * w + x) (0, 0) = (x, y) := by
  rw [scanOrder, getD_flatMap_range _ (by simp) hy hx]
  simp [hx]

/-- Every number below the size is that of a pixel. -/
theorem exists_pixel {w h n : Nat} (hn : n < w * h) : ∃ x y, x < w ∧ y < h ∧ n = y * w + x :=
  ⟨n % w, n / w, Nat.mod_lt _ (Nat.pos_of_mul_pos_right (Nat.zero_lt_of_lt hn)), Nat.div_lt_of_lt_mul hn,
    (Nat.div_add_mod' n w).symm⟩

/-- The scan after its first `n` pixels. -/
def scanAfter (mode : DitherMode) (t : Byte) (w h : Nat) (samples : List Byte) (n : Nat) : DitherScan :=
  ((scanOrder w h).take n).foldl (ditherPixel mode t w h) ⟨initialAcc samples, []⟩

/-- The value the scan tests at the pixel `(x, y)` (43_dither.md R154). -/
def tested (mode : DitherMode) (t : Byte) (w h : Nat) (samples : List Byte) (x y : Int) : Int :=
  cellAt (scanAfter mode t w h samples (y.toNat * w + x.toNat)).acc (y.toNat * w + x.toNat)

/-- The errors of a whole scan, 0 outside the image. -/
abbrev scanError (mode : DitherMode) (t : Byte) (w h : Nat) (samples : List Byte) : Int → Int → Int :=
  errorAt w h t (tested mode t w h samples)

/-- The errors of the first `n` pixels of a scan, 0 elsewhere. -/
def errorBefore (mode : DitherMode) (t : Byte) (w h : Nat) (samples : List Byte) (n : Nat) (x y : Int) : Int :=
  if y.toNat * w + x.toNat < n then scanError mode t w h samples x y else 0

theorem ditherScan_eq_scanAfter (mode : DitherMode) (t : Byte) (w h : Nat) (samples : List Byte) :
    ditherScan mode t w h samples = scanAfter mode t w h samples (w * h) := by
  rw [scanAfter, List.take_of_length_le (scanOrder_length w h).le, ditherScan]

theorem cellAt_ditherPixel {w h x' y' : Nat} {d : DitherScan} (hlen : d.acc.length = w * h) (hx' : x' < w) (hy' : y' < h)
    (x y : Nat) :
    let old := cellAt d.acc (y * w + x)
    let new := quantized (isBlack old t)
    cellAt (ditherPixel mode t w h d (x, y)).acc (y' * w + x') =
      cellAt (d.acc.set (y * w + x) new) (y' * w + x') + gained (errorShares mode (old - new)) x y x' y' :=
  cellAt_addShares ((List.length_set ..).trans hlen) hx' hy' x y _

section
variable {w h : Nat} {samples : List Byte} {n x y : Nat}

theorem scanAfter_succ (hx : x < w) (hy : y < h) : scanAfter mode t w h samples (y * w + x + 1) =
    ditherPixel mode t w h (scanAfter mode t w h samples (y * w + x)) (x, y) := by
  have hn : y * w + x < (scanOrder w h).length := (pixelNumber_lt hx hy).trans_eq (scanOrder_length w h).symm
  have hp : (scanOrder w h)[y * w + x] = (x, y) := (List.getD_eq_getElem _ _ hn).symm.trans (scanOrder_getD hx hy)
  rw [scanAfter, ← List.take_concat_get' _ _ hn, List.foldl_append, hp]
  rfl

/-- What holds at the start and is kept at each pixel holds after any number of pixels. -/
theorem scanAfter_induction {P : Nat → DitherScan → Prop} (start : P 0 ⟨initialAcc samples, []⟩)
    (step : ∀ x y, x < w → y < h → P (y * w + x) (scanAfter mode t w h samples (y * w + x)) →
      P (y * w + x + 1) (ditherPixel mode t w h (scanAfter mode t w h samples (y * w + x)) (x, y)))
    (hn : n ≤ w * h) : P n (scanAfter mode t w h samples n) := by
  induction n with
  | zero => exact start
  | succ n ih =>
    obtain ⟨x, y, hx, hy, rfl⟩ := exists_pixel hn
    rw [scanAfter_succ hx hy]
    exact step x y hx hy (ih (Nat.le_of_succ_le hn))

theorem scanAfter_acc_length (hlen : samples.length = w * h) (hn : n ≤ w * h) :
    (scanAfter mode t w h samples n).acc.length = w * h :=
  scanAfter_induction (P := fun _ d => d.acc.length = w * h) (by simp [initialAcc, hlen])
    (fun _ _ _ _ ih => (ditherPixel_acc_length ..).trans ih) hn

theorem tested_eq_cellAt (x y : Nat) :
    tested mode t w h samples x y = cellAt (scanAfter mode t w h samples (y * w + x)).acc (y * w + x) := rfl

/-- The error of a pixel inside the image (43_dither.md R154). -/
theorem scanError_of_inside (hx : x < w) (hy : y < h) : scanError mode t w h samples x y =
    tested mode t w h samples x y - quantized (isBlack (tested mode t w h samples x y) t) := by
  have inside : inImage w h x y = true := inImage_eq_true.mpr (by omega)
  rw [scanError, errorAt, if_pos inside, quantized_isBlack]
  split <;> simp

theorem errorBefore_succ (hx : x < w) (X Y : Int) :
    errorBefore mode t w h samples (y * w + x + 1) X Y =
      if X = x ∧ Y = y then scanError mode t w h samples x y else errorBefore mode t w h samples (y * w + x) X Y := by
  by_cases here : X = x ∧ Y = y
  · obtain ⟨rfl, rfl⟩ := here
    simp [errorBefore]
  · rw [if_neg here, errorBefore, errorBefore]
    by_cases inside : inImage w h X Y = true
    · obtain ⟨hX0, hXw, hY0, hYh⟩ := inImage_eq_true.mp inside
      have other : Y.toNat * w + X.toNat ≠ y * w + x := fun e => by
        have := pixelNumber_inj (by omega) hx e
        omega
      have : Y.toNat * w + X.toNat < y * w + x + 1 ↔ Y.toNat * w + X.toNat < y * w + x := by omega
      simp only [this]
    · simp [scanError, errorAt, inside]

/-- The cell of a pixel that the scan has not reached holds its sample and what it has gathered so far (43_dither.md R153,
R159). -/
theorem cellAt_scanAfter_of_ahead (hlen : samples.length = w * h) (hn : n ≤ w * h) (hx : x < w) (hy : y < h)
    (ahead : n ≤ y * w + x) : cellAt (scanAfter mode t w h samples n).acc (y * w + x) =
      (samples.getD (y * w + x) 0).toNat + gathered mode (errorBefore mode t w h samples n) x y := by
  revert ahead
  refine scanAfter_induction (P := fun n d => n ≤ y * w + x → cellAt d.acc (y * w + x) =
    (samples.getD (y * w + x) 0).toNat + gathered mode (errorBefore mode t w h samples n) x y) ?_ ?_ hn
  · intro _
    have hk : y * w + x < samples.length := (pixelNumber_lt hx hy).trans_eq hlen.symm
    rw [gathered_of_zero fun X Y => by simp [errorBefore]]
    simp [cellAt, initialAcc, hk]
  · intro x₁ y₁ hx₁ hy₁ ih ahead
    have hlen' : (scanAfter mode t w h samples (y₁ * w + x₁)).acc.length = w * h :=
      scanAfter_acc_length hlen (pixelNumber_lt hx₁ hy₁).le
    rw [cellAt_ditherPixel hlen' hx hy, cellAt_set_of_ne (by omega), ih (by omega), ← tested_eq_cellAt,
      ← scanError_of_inside hx₁ hy₁,
      gathered_update (F := errorBefore mode t w h samples (y₁ * w + x₁)) x y (by simp [errorBefore])
        (errorBefore_succ hx₁), Int.add_assoc]

/-- The cell of a pixel that the scan has passed holds its decision (43_dither.md R151, R154). -/
theorem cellAt_scanAfter_of_passed (hlen : samples.length = w * h) (hn : n ≤ w * h) (hx : x < w) (hy : y < h)
    (passed : y * w + x < n) :
    ∃ black, cellAt (scanAfter mode t w h samples n).acc (y * w + x) = quantized black := by
  revert passed
  refine scanAfter_induction
    (P := fun n d => y * w + x < n → ∃ black, cellAt d.acc (y * w + x) = quantized black) (nofun) ?_ hn
  intro x₁ y₁ hx₁ hy₁ ih passed
  have hlen' : (scanAfter mode t w h samples (y₁ * w + x₁)).acc.length = w * h :=
    scanAfter_acc_length hlen (pixelNumber_lt hx₁ hy₁).le
  rw [cellAt_ditherPixel hlen' hx hy, gained_eq_zero_of_reached hx₁ (by omega), Int.add_zero]
  rcases Nat.lt_succ_iff_lt_or_eq.mp passed with before | here
  · rw [cellAt_set_of_ne (by omega)]
    exact ih before
  · rw [here, cellAt_set_self (by rw [hlen']; exact pixelNumber_lt hx₁ hy₁)]
    exact ⟨_, rfl⟩

/-- The value tested is the sample with the shares of the errors of the pixels around it (43_dither.md R154, R156, R157). -/
theorem tested_eq (hlen : samples.length = w * h) (hx : x < w) (hy : y < h) : tested mode t w h samples x y =
    (samples.getD (y * w + x) 0).toNat + gathered mode (scanError mode t w h samples) x y := by
  rw [tested_eq_cellAt, cellAt_scanAfter_of_ahead hlen (pixelNumber_lt hx hy).le hx hy le_rfl]
  congr 1
  refine gathered_congr fun k hk => ?_
  rw [errorBefore]
  split
  · rfl
  next later =>
    refine (if_neg fun inside => later ?_).symm
    obtain ⟨hX0, hXw, hY0, hYh⟩ := inImage_eq_true.mp inside
    rcases kernel_forward mode _ hk with ⟨right, level⟩ | below
    · have : ((y : Int) - k.dy).toNat = y := by omega
      rw [this]
      omega
    · have : (((y : Int) - k.dy).toNat + 1) * w ≤ y * w := Nat.mul_le_mul_right w (by omega)
      rw [Nat.add_mul] at this
      omega

/-- Every pixel of the new bitmap is the decision on the value tested there (43_dither.md R154, R160). -/
theorem getPixel_ditherScan (hx : x < w) (hy : y < h) :
    (ditherScan mode t w h samples).bmp.getPixel (strideOf w) x y = isBlack (tested mode t w h samples x y) t := by
  rw [ditherScan_eq_scanAfter]
  refine scanAfter_induction (P := fun n d => y * w + x < n →
    d.bmp.getPixel (strideOf w) x y = isBlack (tested mode t w h samples x y) t) (nofun) ?_ le_rfl (pixelNumber_lt hx hy)
  intro x₁ y₁ hx₁ hy₁ ih passed
  by_cases here : x₁ = x ∧ y₁ = y
  · obtain ⟨rfl, rfl⟩ := here
    exact Memory.getPixel_setPixel_self
  · refine (Memory.getPixel_setPixel_of_ne (lt_strideOf hx₁) (lt_strideOf hx) here).trans (ih ?_)
    have : y * w + x ≠ y₁ * w + x₁ := fun e => here (by
      obtain ⟨rfl, rfl⟩ := pixelNumber_inj hx hx₁ e
      exact ⟨rfl, rfl⟩)
    omega

end

/-! ## What a DITHER leaves when its bitmap fits -/

theorem dither_of_fits (image : s.grayHoldsImage)
    (fits : Fits ((s.gray.w.toNat + 7) / 8 * s.gray.h.toNat) s.params.bmpCap) :
    dither mode t s =
      .next ((s.dithered mode t).respond (BitVec.ofNat 64 (dims s.gray.w.toNat s.gray.h.toNat))) :=
  (dither_of_usable (grayHoldsImage_iff.mp image)).trans (ditherImage_of_fits (exceeds_eq_false.mpr fits))

/-- The values a DITHER tests, one a pixel. -/
def State.tested (s : State) (mode : DitherMode) (t : Byte) : Int → Int → Int :=
  Machine.tested mode t s.gray.w.toNat s.gray.h.toNat (s.contents .gray)

section
variable {x y : Nat}

theorem pixel_dithered (d : DWord) (hx : x < s.gray.w.toNat) (hy : y < s.gray.h.toNat) :
    ((s.dithered mode t).respond d).pixel x y = decide (s.tested mode t x y ≤ t.toNat) := by
  have pixel := getPixel_ditherScan (mode := mode) (t := t) (samples := s.contents .gray) hx hy
  rw [← strideOf_toNat s.gray.w] at pixel
  exact pixel

theorem State.tested_eq (canonical : s.memoriesCanonical) (hx : x < s.gray.w.toNat) (hy : y < s.gray.h.toNat) :
    s.tested mode t x y = (s.byteAt .gray (y * s.gray.w.toNat + x)).toNat +
      gathered mode (errorAt s.gray.w.toNat s.gray.h.toNat t (s.tested mode t)) x y := by
  have sample := contents_getD (memOf_rising canonical .gray) (pixelNumber_lt hx hy)
  rw [← sample]
  exact Machine.tested_eq (contents_length s .gray) hx hy

end

theorem gathered_threshold (F : Int → Int → Int) (x y : Int) : gathered .threshold F x y = 0 := rfl

theorem gathered_floydSteinberg (F : Int → Int → Int) (x y : Int) : gathered .floydSteinberg F x y =
    (F (x - 1) y * 7).tdiv 16 + (F (x + 1) (y - 1) * 3).tdiv 16 + (F x (y - 1) * 5).tdiv 16 +
      (F (x - 1) (y - 1) * 1).tdiv 16 := by
  simp [gathered, kernel, ShareWeight.share, divisor, Int.add_assoc]

theorem gathered_atkinson (F : Int → Int → Int) (x y : Int) : gathered .atkinson F x y =
    (F (x - 1) y).tdiv 8 + (F (x - 2) y).tdiv 8 + (F (x + 1) (y - 1)).tdiv 8 + (F x (y - 1)).tdiv 8 +
      (F (x - 1) (y - 1)).tdiv 8 + (F x (y - 2)).tdiv 8 := by
  simp [gathered, kernel, ShareWeight.share, divisor, Int.add_assoc]

/-- Settles O34: both commands are Threshold, whose pixels gather nothing. -/
theorem thresholdDecidesEachPixel : Obligations.ThresholdDecidesEachPixel := by
  intro s t i hi canonical image fits
  have he : exec i s = dither .threshold t s := by
    rcases hi with ⟨be, rfl⟩ | ⟨code, rfl⟩
    · rfl
    · exact execDitherU_optIn code t s
  refine ⟨_, he.trans (dither_of_fits image fits), rfl, rfl, rfl, strideOf_toNat _, rfl, fun x y hx hy => ?_⟩
  rw [pixel_dithered _ hx hy, State.tested_eq canonical hx hy, gathered_threshold, Int.add_zero]
  simp only [Nat.cast_le]

/-- Settles O35, with the values the scan tests. -/
theorem floydSteinbergGathersItsErrors : Obligations.FloydSteinbergGathersItsErrors := by
  intro s t be canonical image fits
  refine ⟨_, s.tested .floydSteinberg t, dither_of_fits image fits, rfl, rfl, rfl, strideOf_toNat _, rfl,
    fun x y hx hy => ⟨?_, pixel_dithered _ hx hy⟩⟩
  rw [State.tested_eq canonical hx hy, gathered_floydSteinberg]
  simp only [Int.add_assoc]

/-- Settles O36, with the values the scan tests. -/
theorem atkinsonGathersItsErrors : Obligations.AtkinsonGathersItsErrors := by
  intro s t be canonical image fits
  refine ⟨_, s.tested .atkinson t, dither_of_fits image fits, rfl, rfl, rfl, strideOf_toNat _, rfl,
    fun x y hx hy => ⟨?_, pixel_dithered _ hx hy⟩⟩
  rw [State.tested_eq canonical hx hy, gathered_atkinson]
  simp only [Int.add_assoc]

/-! ## The range of the accumulator -/

/-- The least error and the least value of a cell (43_dither.md R165). -/
def errorFloor (t : Byte) : Int := min 0 (t.toNat - 254)

theorem errorFloor_bounds (t : Byte) : errorFloor t ≤ 0 ∧ errorFloor t ≤ t.toNat - 254 ∧ -254 ≤ errorFloor t ∧
    (t.toNat : Int) ≤ 255 := by
  have ht := t.isLt
  unfold errorFloor
  omega

/-- A cell with a sample and shares of bounded errors. -/
theorem sample_add_bounds (t b : Byte) {g : Int} (hg : errorFloor t ≤ g ∧ g ≤ t.toNat) :
    errorFloor t ≤ b.toNat + g ∧ b.toNat + g ≤ 255 + t.toNat := by
  have hb := b.isLt
  omega

/-- The error of a value in the range of a cell is in the range of an error. -/
theorem sub_quantized_bounds {old : Int} (h : errorFloor t ≤ old ∧ old ≤ 255 + t.toNat) :
    errorFloor t ≤ old - quantized (isBlack old t) ∧ old - quantized (isBlack old t) ≤ t.toNat := by
  have ht := errorFloor_bounds t
  rw [quantized_isBlack]
  split <;> omega

theorem quantized_in_range (t : Byte) (b : Bool) : errorFloor t ≤ quantized b ∧ quantized b ≤ 255 + t.toNat := by
  have ht := errorFloor_bounds t
  have hb := quantized_bounds b
  omega

section
variable {w h : Nat} {samples : List Byte} {n : Nat}

/-- By induction along the scan: what a pixel gathers of bounded errors is bounded, so its own error is. -/
theorem errorBefore_bounds (hlen : samples.length = w * h) (hn : n ≤ w * h) (X Y : Int) :
    errorFloor t ≤ errorBefore mode t w h samples n X Y ∧ errorBefore mode t w h samples n X Y ≤ t.toNat := by
  obtain ⟨hlo, -, -, -⟩ := errorFloor_bounds t
  induction n generalizing X Y with
  | zero => simpa [errorBefore] using hlo
  | succ n ih =>
    have before := ih (Nat.le_of_succ_le hn)
    obtain ⟨x, y, hx, hy, rfl⟩ := exists_pixel hn
    rw [errorBefore_succ hx]
    split
    · rw [scanError_of_inside hx hy]
      refine sub_quantized_bounds ?_
      rw [tested_eq_cellAt, cellAt_scanAfter_of_ahead hlen (pixelNumber_lt hx hy).le hx hy le_rfl]
      exact sample_add_bounds t _ (gathered_bounds hlo (Int.natCast_nonneg _) before x y)
    · exact before X Y

/-- Every cell stays in its range at every pixel of the scan. -/
theorem cellAt_scanAfter_bounds (hlen : samples.length = w * h) (hn : n ≤ w * h) {j : Nat} (hj : j < w * h) :
    errorFloor t ≤ cellAt (scanAfter mode t w h samples n).acc j ∧
      cellAt (scanAfter mode t w h samples n).acc j ≤ 255 + t.toNat := by
  obtain ⟨hlo, -, -, -⟩ := errorFloor_bounds t
  obtain ⟨x, y, hx, hy, rfl⟩ := exists_pixel hj
  rcases Nat.lt_or_ge (y * w + x) n with passed | ahead
  · obtain ⟨black, e⟩ := cellAt_scanAfter_of_passed (mode := mode) (t := t) hlen hn hx hy passed
    rw [e]
    exact quantized_in_range t black
  · rw [cellAt_scanAfter_of_ahead hlen hn hx hy ahead]
    exact sample_add_bounds t _ (gathered_bounds hlo (Int.natCast_nonneg _) (errorBefore_bounds hlen hn) x y)

end

/-- All the shares of one error have its sign, so some of them come to something between nothing and all of them. -/
theorem gained_take_between (mode : DitherMode) (err : Int) (k : Nat) (x y x' y' : Int) :
    min 0 (gained (errorShares mode err) x y x' y') ≤ gained ((errorShares mode err).take k) x y x' y' ∧
      gained ((errorShares mode err).take k) x y x' y' ≤ max 0 (gained (errorShares mode err) x y x' y') := by
  have parts : gained (errorShares mode err) x y x' y' = gained ((errorShares mode err).take k) x y x' y' +
      gained ((errorShares mode err).drop k) x y x' y' := by rw [← gained_append, List.take_append_drop]
  have sign {e : Int × Int × Int} (he : e ∈ errorShares mode err) :
      (0 ≤ err → 0 ≤ e.2.2) ∧ (err ≤ 0 → e.2.2 ≤ 0) := by
    rw [errorShares_eq] at he
    obtain ⟨k, hk, rfl⟩ := List.mem_map.mp he
    have hnum := kernel_num_nonneg mode _ hk
    exact ⟨ShareWeight.share_nonneg hnum, ShareWeight.share_nonpos hnum⟩
  rcases le_total 0 err with h | h
  · have first : 0 ≤ gained ((errorShares mode err).take k) x y x' y' :=
      gained_nonneg fun e he => (sign (List.mem_of_mem_take he)).1 h
    have rest : 0 ≤ gained ((errorShares mode err).drop k) x y x' y' :=
      gained_nonneg fun e he => (sign (List.mem_of_mem_drop he)).1 h
    omega
  · have first : gained ((errorShares mode err).take k) x y x' y' ≤ 0 :=
      gained_nonpos fun e he => (sign (List.mem_of_mem_take he)).2 h
    have rest : gained ((errorShares mode err).drop k) x y x' y' ≤ 0 :=
      gained_nonpos fun e he => (sign (List.mem_of_mem_drop he)).2 h
    omega

theorem exists_cellAt_of_mem {acc : List Int} {v : Int} (hv : v ∈ acc) : ∃ j, j < acc.length ∧ v = cellAt acc j := by
  obtain ⟨j, hj, rfl⟩ := List.mem_iff_getElem.mp hv
  exact ⟨j, hj, by simp [cellAt, hj]⟩

section
variable {w h x y : Nat} {samples : List Byte}

/-- A cell while some of a pixel's shares have been added lies between its values before and after all of them. -/
theorem cellAt_partly_bounds (hlen : samples.length = w * h) (hx : x < w) (hy : y < h) (k : Nat) {j : Nat}
    (hj : j < w * h) :
    let d := scanAfter mode t w h samples (y * w + x)
    let old := cellAt d.acc (y * w + x)
    let new := quantized (isBlack old t)
    let partly := addShares w h x y ((errorShares mode (old - new)).take k) (d.acc.set (y * w + x) new)
    errorFloor t ≤ cellAt partly j ∧ cellAt partly j ≤ 255 + t.toNat := by
  intro d old new partly
  have hn := pixelNumber_lt hx hy
  have hlen' : d.acc.length = w * h := scanAfter_acc_length hlen hn.le
  have hset : (d.acc.set (y * w + x) new).length = w * h := (List.length_set ..).trans hlen'
  have before : errorFloor t ≤ cellAt (d.acc.set (y * w + x) new) j ∧
      cellAt (d.acc.set (y * w + x) new) j ≤ 255 + t.toNat := by
    by_cases here : j = y * w + x
    · rw [here, cellAt_set_self (by omega)]
      exact quantized_in_range t _
    · rw [cellAt_set_of_ne here]
      exact cellAt_scanAfter_bounds hlen hn.le hj
  have after := cellAt_scanAfter_bounds (mode := mode) (t := t) hlen (show y * w + x + 1 ≤ w * h from hn) hj
  obtain ⟨x', y', hx', hy', rfl⟩ := exists_pixel hj
  have complete : cellAt (scanAfter mode t w h samples (y * w + x + 1)).acc (y' * w + x') =
      cellAt (d.acc.set (y * w + x) new) (y' * w + x') + gained (errorShares mode (old - new)) x y x' y' := by
    rw [scanAfter_succ hx hy]
    exact cellAt_ditherPixel hlen' hx' hy' x y
  have partway : cellAt partly (y' * w + x') = cellAt (d.acc.set (y * w + x) new) (y' * w + x') +
      gained ((errorShares mode (old - new)).take k) x y x' y' := cellAt_addShares hset hx' hy' x y _
  have between := gained_take_between mode (old - new) k x y x' y'
  omega

end

/-- Numbers of the range fit 10 signed bits, and so any more (43_dither.md R165). -/
theorem fits_signed {v : Int} {bits : Nat} (hv : -254 ≤ v ∧ v ≤ 510) (hbits : 10 ≤ bits) :
    -(2 : Int) ^ (bits - 1) ≤ v ∧ v < (2 : Int) ^ (bits - 1) := by
  have : (2 : Int) ^ 9 ≤ 2 ^ (bits - 1) := pow_le_pow_right₀ (by decide) (by omega)
  omega

/-- Settles O38: cells from the bounds at each pixel and between its shares, errors from the value tested. -/
theorem accumulatorStaysInItsRange : Obligations.AccumulatorStaysInItsRange := by
  intro mode t w h n k samples hlen hn
  obtain ⟨x, y, hx, hy, rfl⟩ := exists_pixel hn
  rw [scanOrder_getD hx hy]
  simp -zeta only [← quantized_isBlack]
  have cells {v : Int} (hv : v ∈ (scanAfter mode t w h samples (y * w + x)).acc) :
      errorFloor t ≤ v ∧ v ≤ 255 + t.toNat := by
    obtain ⟨j, hj, rfl⟩ := exists_cellAt_of_mem hv
    rw [scanAfter_acc_length hlen hn.le] at hj
    exact cellAt_scanAfter_bounds hlen hn.le hj
  intro lo d p old new partly
  have hpartly : partly.length = w * h := by
    rw [← scanAfter_acc_length (mode := mode) (t := t) hlen hn.le]
    exact (addShares_length ..).trans (List.length_set ..)
  have between {v : Int} (hv : v ∈ partly) : errorFloor t ≤ v ∧ v ≤ 255 + t.toNat := by
    obtain ⟨j, hj, rfl⟩ := exists_cellAt_of_mem hv
    exact cellAt_partly_bounds hlen hx hy k (hj.trans_eq hpartly)
  obtain ⟨errLow, errHigh⟩ : errorFloor t ≤ old - new ∧ old - new ≤ t.toNat :=
    sub_quantized_bounds (cellAt_scanAfter_bounds hlen hn.le hn)
  obtain ⟨-, -, floor, threshold⟩ := errorFloor_bounds t
  refine ⟨fun v => cells, fun v => between, floor, by omega, errLow, errHigh, by omega, by omega,
    fun bits hbits v hv => fits_signed ?_ hbits⟩
  have := between hv
  omega

end Sys2Proof.Machine
end

section
/-! PROOFS, family 44_bitmap.md. BMP memories as the bytes they hold, what the four commands answer inside a bitmap, and the
set of black pixels a run of SET_PIXEL commands leaves. -/

namespace Sys2Proof.Machine

variable {s : State}

/-! ## Memories as bytes -/

namespace Memory

variable {m m' : Memory} {a n : Nat} {v : Byte}

theorem mem_of_lookup (h : lookup m a = some v) : (a, v) ∈ m := by
  induction m with
  | nil => nomatch h
  | cons c m ih =>
    obtain ⟨k, w⟩ := c
    rw [lookup_cons] at h
    split at h
    · cases h
      simp [*]
    · exact List.mem_cons_of_mem _ (ih h)

/-- In the canonical form of GRAY, BMP and OUT a byte that is 0 is not listed. -/
theorem lookup_eq_of_wf (hm : wf (some 0) m = true) :
    lookup m a = if read zeroByte m a = 0 then none else some (read zeroByte m a) := by
  cases h : lookup m a with
  | none => simp [read, h, zeroByte]
  | some v =>
    have listed : v ≠ 0#8 := fun e => (wf_iff.mp hm).2 _ (mem_of_lookup h) (congrArg some e.symm)
    simp [read, h, listed]

/-- Two memories in canonical form that read the same are the same. -/
theorem eq_of_read (hm : wf (some 0) m = true) (hm' : wf (some 0) m' = true)
    (h : ∀ a, read zeroByte m a = read zeroByte m' a) : m = m' :=
  eq_of_lookup (wf_iff.mp hm).1 (wf_iff.mp hm').1 fun a => by rw [lookup_eq_of_wf hm, lookup_eq_of_wf hm', h a]

theorem window_nil : window zeroByte [] a n = List.replicate n 0 := by
  induction n generalizing a with
  | zero => rfl
  | succ n ih => rw [window, ih]; rfl

end Memory

/-- Giving a bit the value it has leaves the byte as it is (44_bitmap.md R184). -/
theorem setBit_self (v : Byte) (x : Nat) : setBit v x (v.getLsbD (pixelBit x)) = v := by
  refine BitVec.eq_of_getLsbD_eq fun k hk => ?_
  rw [setBit_getLsbD v x k _ hk]
  split
  · next here => rw [here]
  · rfl

/-- Setting a pixel to the value it has leaves a canonical memory as it is (44_bitmap.md R184). -/
theorem Memory.setPixel_of_getPixel_eq {m : Memory} {stride x y : Nat} {black : Bool}
    (hm : m.wf Buffer.bmp.unlisted = true) (h : m.getPixel stride x y = black) : m.setPixel stride x y black = m := by
  refine eq_of_read (wf_setPixel hm) hm fun a => ?_
  by_cases here : pixelOffset stride x y = a
  · subst here h
    rw [read_setPixel_self, getPixel, setBit_self]
  · exact read_setPixel_of_ne here

/-- A bit of a byte as a number (44_bitmap.md R182). -/
theorem ofNat_bit (v : Byte) (k : Nat) :
    BitVec.ofNat 64 (v.toNat / 2 ^ k % 2) = if v.getLsbD k then 1 else 0 := by
  rw [← Nat.toNat_testBit, BitVec.testBit_toNat]
  cases v.getLsbD k <;> rfl

/-! ## What the commands answer inside a bitmap -/

theorem exec_bmpNew_of_fits {w h : Word} (fits : Fits ((w.toNat + 7) / 8 * h.toNat) s.params.bmpCap) :
    exec (.bmpNew w h) s = .next ((s.blankBitmap w h).respond (BitVec.ofNat 64 (strideOf w.toNat * h.toNat))) := by
  rcases execBmpNew_cases w h s with ⟨exceeded, -⟩ | ⟨-, answer⟩
  · exact absurd fits (not_fits_iff.mpr exceeded)
  · exact answer

theorem exec_rasterBytes_of_valid (valid : s.bmp.valid = true) :
    exec .rasterBytes s = .next (s.respond (BitVec.ofNat 64 (s.bmp.stride.toNat * s.bmp.h.toNat))) := by
  rcases execRasterBytes_cases s with ⟨nil, -⟩ | ⟨-, answer⟩
  · exact absurd valid (ne_true_of_eq_false nil)
  · exact answer

section
variable {x y : Word}

theorem pixelOutside_eq_false :
    s.pixelOutside x y = false ↔ x.toNat < s.bmp.w.toNat ∧ y.toNat < s.bmp.h.toNat := by
  rw [← Bool.not_eq_true, pixelOutside_eq_true, not_or, Nat.not_le, Nat.not_le]

variable (valid : s.bmp.valid = true) (hx : x.toNat < s.bmp.w.toNat) (hy : y.toNat < s.bmp.h.toNat)
include valid hx hy

theorem exec_setPixel_of_inside (black : Bool) :
    exec (.setPixel x y black) s = .next ((s.withPixel x y black).respond 0) := by
  rcases execSetPixel_cases x y black s with ⟨nil, -⟩ | ⟨-, outside, -⟩ | ⟨-, -, answer⟩
  · exact absurd valid (ne_true_of_eq_false nil)
  · exact absurd outside (ne_true_of_eq_false (pixelOutside_eq_false.mpr ⟨hx, hy⟩))
  · exact answer

theorem exec_getPixel_of_inside :
    exec (.getPixel x y) s = .next (s.respond (if s.pixel x.toNat y.toNat then 1 else 0)) := by
  rcases execGetPixel_cases x y s with ⟨nil, -⟩ | ⟨-, outside, -⟩ | ⟨-, -, answer⟩
  · exact absurd valid (ne_true_of_eq_false nil)
  · exact absurd outside (ne_true_of_eq_false (pixelOutside_eq_false.mpr ⟨hx, hy⟩))
  · exact answer

end

/-! ## The pixels and bytes they leave -/

theorem pixel_blankBitmap (w h : Word) (d : DWord) (x y : Nat) : ((s.blankBitmap w h).respond d).pixel x y = false :=
  Memory.getPixel_nil _ x y

theorem contents_blankBitmap (w h : Word) (d : DWord) :
    ((s.blankBitmap w h).respond d).contents .bmp = List.replicate (strideOf w.toNat * h.toNat) 0 := by
  have size : ((s.blankBitmap w h).respond d).sizeOf .bmp = strideOf w.toNat * h.toNat :=
    congrArg (· * h.toNat) (strideOf_toNat w)
  rw [← size]
  exact Memory.window_nil

section
variable {x y : Word} {black : Bool}

/-- SET_PIXEL changes one pixel of the bit grid (44_bitmap.md R184). -/
theorem pixel_withPixel (d : DWord) {x' y' : Nat} (hx : x.toNat < 8 * s.bmp.stride.toNat)
    (hx' : x' < 8 * s.bmp.stride.toNat) : ((s.withPixel x y black).respond d).pixel x' y' =
      if x' = x.toNat ∧ y' = y.toNat then black else s.pixel x' y' := by
  split
  · next here =>
    obtain ⟨rfl, rfl⟩ := here
    exact Memory.getPixel_setPixel_self
  · next other => exact Memory.getPixel_setPixel_of_ne hx hx' fun e => other ⟨e.1.symm, e.2.symm⟩

theorem byteAt_withPixel_of_ne (d : DWord) {a : Nat} (h : a ≠ y.toNat * s.bmp.stride.toNat + x.toNat / 8) :
    ((s.withPixel x y black).respond d).byteAt .bmp a = s.byteAt .bmp a := Memory.read_setPixel_of_ne h.symm

theorem bmp_withPixel_of_pixel_eq (canonical : s.memoriesCanonical) (h : s.pixel x.toNat y.toNat = black) :
    (s.withPixel x y black).bmp = s.bmp := by
  obtain ⟨-, -, bmp, -⟩ := canonical
  exact congrArg (fun mem => { s.bmp with mem := mem }) (Memory.setPixel_of_getPixel_eq bmp h)

end

/-- Settles O41: the new BMP lists no byte, so every byte and every pixel reads 0. -/
theorem bmpNewIsAllWhite : Obligations.BmpNewIsAllWhite := by
  intro s w h fits
  exact ⟨_, exec_bmpNew_of_fits fits, rfl, rfl, rfl, strideOf_toNat w, rfl, contents_blankBitmap w h _,
    pixel_blankBitmap w h _⟩

/-- Settles O42: the invariant's stride puts the pixel in the bit grid, and its canonical form makes a BMP with the same
bytes the same BMP. -/
theorem setPixelChangesOneBit : Obligations.SetPixelChangesOneBit := by
  intro s x y black inv valid hx hy
  have hgrid : x.toNat < 8 * s.bmp.stride.toNat := inv.stride valid ▸ lt_strideOf hx
  refine ⟨_, exec_setPixel_of_inside valid hx hy black, rfl, ?_, fun x' y' hx' other => ?_,
    fun a => byteAt_withPixel_of_ne 0, bmp_withPixel_of_pixel_eq inv.memories⟩
  · rw [pixel_withPixel 0 hgrid hgrid, if_pos ⟨rfl, rfl⟩]
  · rw [pixel_withPixel 0 hgrid hx', if_neg other]

/-- Settles O43: the pixel read is the bit the statement writes out. -/
theorem getPixelReadsOneBit : Obligations.GetPixelReadsOneBit := by
  intro s x y valid hx hy
  rw [ofNat_bit]
  exact exec_getPixel_of_inside valid hx hy

/-- Settles O44: two 32-bit registers multiply to less than 64 bits. -/
theorem rasterBytesGivesTheLength : Obligations.RasterBytesGivesTheLength := by
  intro s valid
  refine ⟨exec_rasterBytes_of_valid valid, ?_⟩
  calc s.bmp.stride.toNat * s.bmp.h.toNat < 2 ^ 32 * 2 ^ 32 := Nat.mul_lt_mul'' s.bmp.stride.isLt s.bmp.h.isLt
    _ = 2 ^ 64 := by norm_num

/-! ## The black pixels a run of SET_PIXEL leaves -/

/-- One SET_PIXEL's change to the set of black pixels (44_bitmap.md R186). -/
def recordPixel (K : List (Word × Word)) (o : Word × Word × Bool) : List (Word × Word) :=
  if o.2.2 then (o.1, o.2.1) :: K else K.filter fun p => p != (o.1, o.2.1)

theorem blackSet_eq (ops : List (Word × Word × Bool)) : blackSet ops = ops.foldl recordPixel [] := rfl

theorem mem_recordPixel {K : List (Word × Word)} {x y : Word} {black : Bool} {p : Word × Word} :
    p ∈ recordPixel K (x, y, black) ↔ if p = (x, y) then black = true else p ∈ K := by
  cases black with
  | true | false => by_cases here : p = (x, y) <;> simp [recordPixel, here]

/-- BMP is a bitmap `w` by `h` whose black pixels are those of `K`. -/
structure State.Shows (s : State) (w h : Word) (K : List (Word × Word)) : Prop where
  valid  : s.bmp.valid = true
  width  : s.bmp.w = w
  height : s.bmp.h = h
  stride : s.bmp.stride.toNat = strideOf w.toNat
  pixels : ∀ x y : Word, x.toNat < w.toNat → y.toNat < h.toNat → s.pixel x.toNat y.toNat = decide ((x, y) ∈ K)

theorem shows_blankBitmap (w h : Word) (d : DWord) : ((s.blankBitmap w h).respond d).Shows w h [] where
  valid  := rfl
  width  := rfl
  height := rfl
  stride := strideOf_toNat w
  pixels := fun x y _ _ => pixel_blankBitmap w h d x.toNat y.toNat

section
variable {w h x y : Word} {K : List (Word × Word)}

theorem State.Shows.exec_getPixel (hs : s.Shows w h K) (hx : x.toNat < w.toNat) (hy : y.toNat < h.toNat) :
    exec (.getPixel x y) s = .next (s.respond (if (x, y) ∈ K then 1 else 0)) := by
  rw [exec_getPixel_of_inside hs.valid (hs.width ▸ hx) (hs.height ▸ hy), hs.pixels x y hx hy]
  simp only [decide_eq_true_eq]

theorem State.Shows.exec_setPixel (hs : s.Shows w h K) (hx : x.toNat < w.toNat) (hy : y.toNat < h.toNat) (black : Bool) :
    exec (.setPixel x y black) s = .next ((s.withPixel x y black).respond 0) :=
  exec_setPixel_of_inside hs.valid (hs.width ▸ hx) (hs.height ▸ hy) black

theorem State.Shows.withPixel (hs : s.Shows w h K) (hx : x.toNat < w.toNat) (black : Bool) (d : DWord) :
    ((s.withPixel x y black).respond d).Shows w h (recordPixel K (x, y, black)) where
  valid  := hs.valid
  width  := hs.width
  height := hs.height
  stride := hs.stride
  pixels := fun x' y' hx' hy' => by
    have grid {c : Nat} (hc : c < w.toNat) : c < 8 * s.bmp.stride.toNat := hs.stride ▸ lt_strideOf hc
    rw [pixel_withPixel d (grid hx) (grid hx'), hs.pixels x' y' hx' hy']
    simp only [mem_recordPixel, Prod.mk.injEq, BitVec.toNat_inj]
    split <;> simp

end

/-- By induction on the operands: each SET_PIXEL records its pixel. -/
theorem State.Shows.execAll_setPixel {w h : Word} (ops : List (Word × Word × Bool))
    (inside : ∀ o ∈ ops, o.1.toNat < w.toNat ∧ o.2.1.toNat < h.toNat) {K : List (Word × Word)} (hs : s.Shows w h K) :
    ∃ t, execAll (ops.map fun o => .setPixel o.1 o.2.1 o.2.2) s = .next t ∧ t.Shows w h (ops.foldl recordPixel K) := by
  induction ops generalizing s K with
  | nil => exact ⟨s, rfl, hs⟩
  | cons o ops ih =>
    obtain ⟨⟨hx, hy⟩, inside⟩ := List.forall_mem_cons.mp inside
    rw [List.map_cons, execAll, hs.exec_setPixel hx hy]
    exact ih inside (hs.withPixel hx o.2.2 0)

/-- Settles O45: BMP_NEW shows the empty set, each SET_PIXEL keeps BMP and the set in step, and GET_PIXEL reads the set. -/
theorem pixelsRoundTrip : Obligations.PixelsRoundTrip := by
  intro s w h ops fits inside
  obtain ⟨t, answer, shown⟩ := (shows_blankBitmap (s := s) w h _).execAll_setPixel ops inside
  rw [← blackSet_eq] at shown
  refine ⟨t, ?_, fun x y hx hy => shown.exec_getPixel hx hy⟩
  rw [execAll, exec_bmpNew_of_fits fits]
  exact answer

end Sys2Proof.Machine
end

section
/-! PROOFS, family 45_encoder.md. Which commands are refused, which framing has a dimension that does not fit, and the
RasterCommand an ENCODE leaves in OUT when its checks pass. -/

namespace Sys2Proof.Machine

variable {i : Instr} {s : State} {m : PrintMode} {F lim : Nat} {g : Tag}

/-! ## The refusal -/

/-- Without graphics the encoder refuses before its other checks (45_encoder.md R202). -/
theorem encodeBitmap_of_mute (mute : s.profile.gfx = false) :
    encodeBitmap m F g lim s = .refused .graphicsUnsupported := if_pos (by rw [mute]; rfl)

theorem exec_encode_of_mute (hi : i = .encodeStd m ∨ i = .encodeLarge m) (mute : s.profile.gfx = false) :
    exec i s = .refused .graphicsUnsupported := by
  rcases hi with rfl | rfl
  · exact encodeBitmap_of_mute mute
  · exact encodeBitmap_of_mute mute

/-- Settles O19: of the ways a command ends, one is a refusal. -/
theorem onlyEncodeWithoutGraphicsIsRefused : Obligations.OnlyEncodeWithoutGraphicsIsRefused := by
  intro i s r
  constructor
  · intro h
    cases exec_ending i s with
    | error c answer code => nomatch answer.symm.trans h
    | ok u d answer => nomatch answer.symm.trans h
    | fatalStop x y command valid outside answer => nomatch answer.symm.trans h
    | refused m command gfx answer =>
      cases answer.symm.trans h
      exact ⟨⟨m, command⟩, gfx, rfl⟩
  · rintro ⟨⟨m, hi⟩, mute, rfl⟩
    exact exec_encode_of_mute hi mute

/-! ## The dimension check -/

theorem word_toNat_le (w : Word) : w.toNat ≤ 4294967295 := Nat.le_of_lt_succ w.isLt

/-- The dimension check fails only on a width or a height above the limit of the framing (45_encoder.md R213). -/
theorem limit_lt_of_answers_dimensionOutOfRange (hF : F ≤ 4) (he : exec i s = encodeBitmap m F g lim s)
    (h : Answers i s .dimensionOutOfRange) : lim < s.bmp.stride.toNat ∨ lim < s.bmp.h.toNat := by
  rcases encodeBitmap_cases m hF g lim s with
    ⟨_, e⟩ | ⟨_, ⟨_, e⟩ | ⟨_, ⟨_, e⟩ | ⟨_, ⟨above, _⟩ | ⟨_, ⟨_, e⟩ | ⟨_, ⟨_, e⟩ | ⟨_, e⟩⟩⟩⟩⟩⟩
  · exact absurd h (not_answers_of_refused (he.trans e))
  · nomatch (answers_of_raise (he.trans e)).mp h
  · nomatch (answers_of_raise (he.trans e)).mp h
  · exact above
  · nomatch (answers_of_raise (he.trans e)).mp h
  · nomatch (answers_of_raise (he.trans e)).mp h
  · nomatch (answers_of_respond (he.trans e) rfl).mp h

theorem encodeLarge_not_answers_dimensionOutOfRange : ¬Answers (.encodeLarge m) s .dimensionOutOfRange := fun h =>
  (limit_lt_of_answers_dimensionOutOfRange (by decide) rfl h).elim (Nat.not_lt.mpr (word_toNat_le _))
    (Nat.not_lt.mpr (word_toNat_le _))

/-- Only ENCODE has the code `DimensionOutOfRange` (60_exceptions.md R235). -/
theorem isEncode_of_dimensionOutOfRange_mem (h : Code.dimensionOutOfRange ∈ errorCodes i) : IsEncode i := by
  cases i with
  | encodeStd m => exact ⟨m, .inl rfl⟩
  | encodeLarge m => exact ⟨m, .inr rfl⟩
  | ditherU code t be => cases be <;> simp [errorCodes] at h
  | _ => simp [errorCodes] at h

/-- Settles O23: a 32-bit register is never above the limit of the large framing. -/
theorem largeFramingHoldsEveryBitmap : Obligations.LargeFramingHoldsEveryBitmap := by
  refine ⟨fun s matching valid => ⟨?_, word_toNat_le s.bmp.h⟩, fun i s h => ?_⟩
  · exact (matching valid).trans_le (strideOf_le s.bmp.w)
  · rcases exec_answersWithin i s _ h with ok | mem
    · nomatch ok
    · obtain ⟨m, rfl | rfl⟩ := isEncode_of_dimensionOutOfRange_mem mem
      · exact ⟨m, rfl⟩
      · exact absurd h encodeLarge_not_answers_dimensionOutOfRange

/-! ## What an ENCODE writes -/

namespace Memory

/-- `MemRead` of a whole GRAY, BMP or OUT gives the bytes it was built from (00_scope.md R17). -/
theorem readBytes_ofBytes_zero (vs : List Byte) : readBytes zeroByte (ofBytes (some 0) 0 vs) 0 vs.length = vs := by
  refine List.ext_getElem readBytes_length fun k hk hk' => ?_
  have sorted : rising (ofBytes (some 0) 0 vs) = true := (wf_iff.mp wf_ofBytes).1
  have byte := readBytes_getElem? (d := zeroByte) (a := 0) sorted hk'
  rw [Nat.zero_add, read_ofBytes_zero, List.getElem?_eq_getElem hk, List.getD_eq_getElem _ _ hk'] at byte
  exact Option.some.inj byte

end Memory

theorem outLen_encoded (hF : F ≤ 4) :
    (s.encoded m F g).out.len.toNat = rasterCommandLength g F (s.bmp.stride.toNat * s.bmp.h.toNat) :=
  Nat.mod_eq_of_lt (rasterCommandLength_lt g hF s.bmp.stride s.bmp.h)

/-- OUT holds the RasterCommand of the bitmap, whole and nothing after it (45_encoder.md R207). -/
theorem contents_encoded (hF : F ≤ 4) (d : DWord) : ((s.encoded m F g).respond d).contents .out =
    rasterCommand g m F s.bmp.stride.toNat s.bmp.h.toNat (s.contents .bmp) := by
  have size : ((s.encoded m F g).respond d).sizeOf .out =
      (rasterCommand g m F s.bmp.stride.toNat s.bmp.h.toNat (s.contents .bmp)).length := by
    rw [rasterCommand_length, contents_length]
    exact outLen_encoded hF
  rw [State.contents, size]
  exact Memory.readBytes_ofBytes_zero _

/-- Past all of its checks an ENCODE answers the encoded state (45_encoder.md R209). -/
theorem encodeBitmap_of_fits (hF : F ≤ 4) (gfx : s.profile.gfx = true) (valid : s.bmp.valid = true)
    (width : 0 < s.bmp.stride.toNat) (height : 0 < s.bmp.h.toNat) (hw : s.bmp.stride.toNat ≤ lim)
    (hh : s.bmp.h.toNat ≤ lim) (small : s.bmp.stride.toNat * s.bmp.h.toNat ≤ s.profile.maxBuf.toNat)
    (fits : Fits (rasterCommandLength g F (s.bmp.stride.toNat * s.bmp.h.toNat)) s.params.outCap) :
    encodeBitmap m F g lim s = .next ((s.encoded m F g).respond
      (BitVec.ofNat 64 (rasterCommandLength g F (s.bmp.stride.toNat * s.bmp.h.toNat)))) := by
  rcases encodeBitmap_cases m hF g lim s with
    ⟨mute, _⟩ | ⟨_, ⟨nil, _⟩ | ⟨_, ⟨empty, _⟩ | ⟨_, ⟨above, _⟩ | ⟨_, ⟨large, _⟩ | ⟨_, ⟨exceeded, _⟩ | ⟨_, answer⟩⟩⟩⟩⟩⟩
  · exact absurd gfx (ne_true_of_eq_false mute)
  · exact absurd valid (ne_true_of_eq_false nil)
  · exact absurd empty (by omega)
  · exact absurd above (by omega)
  · exact absurd small (Nat.not_le.mpr large)
  · exact absurd fits (not_fits_iff.mpr exceeded)
  · exact answer

/-- A byte keeps the low eight bits of a number. -/
theorem ofNat_mod_byte (v : Nat) : BitVec.ofNat 8 (v % 256) = BitVec.ofNat 8 v :=
  BitVec.eq_of_toNat_eq (Nat.mod_mod v 256)

/-- The two bytes of a field of the standard framing (45_encoder.md R210). -/
theorem leBytes_two (v : Nat) : leBytes 2 v = [BitVec.ofNat 8 (v % 256), BitVec.ofNat 8 (v / 256)] := by
  simp only [leBytes, ofNat_mod_byte]

/-- The four bytes of a field of the large framing (45_encoder.md R211). -/
theorem leBytes_four (v : Nat) : leBytes 4 v = [BitVec.ofNat 8 (v % 256), BitVec.ofNat 8 (v / 256 % 256),
    BitVec.ofNat 8 (v / 65536 % 256), BitVec.ofNat 8 (v / 16777216)] := by
  simp only [leBytes, ofNat_mod_byte, Nat.div_div_eq_div_mul]

/-- Settles O46: the encoded state, with its two fields written out as two bytes each. -/
theorem encodeStdWritesTheRasterCommand : Obligations.EncodeStdWritesTheRasterCommand := by
  intro s m wb h L gfx valid width hw height hh small fits
  refine ⟨_, encodeBitmap_of_fits (by decide) gfx valid width height hw hh small fits, rfl, rfl,
    outLen_encoded (by decide), (contents_encoded (by decide) _).trans ?_⟩
  simp only [rasterCommand, leBytes_two, List.append_assoc, List.cons_append, List.nil_append, wb, h]

/-- Settles O47: the encoded state, with its two fields written out as four bytes each; every 32-bit dimension is within
the limit. -/
theorem encodeLargeWritesTheRasterCommand : Obligations.EncodeLargeWritesTheRasterCommand := by
  intro s m wb h L gfx valid width height small fits
  refine ⟨_, encodeBitmap_of_fits (by decide) gfx valid width height (word_toNat_le _) (word_toNat_le _) small fits,
    rfl, rfl, outLen_encoded (by decide), (contents_encoded (by decide) _).trans ?_⟩
  simp only [rasterCommand, leBytes_four, List.append_assoc, List.cons_append, List.nil_append, wb, h]

end Sys2Proof.Machine
end

section
/-! PROOFS, family 60_exceptions.md. What an error leaves, when the block stops, and the conditions of `InvalidInput` and
of the encoder's errors, check by check. -/

namespace Sys2Proof.Machine

variable {i : Instr} {s u : State} {c e : Code}

/-! ## What an error leaves -/

/-- Settles O13: an ending that answers another code than `OK` is an error's, on the unchanged state. -/
theorem errorsChangeNothing : Obligations.ErrorsChangeNothing := by
  intro i s t c d h observed code
  have answers : Answers i s c := ⟨t, d, h, observed⟩
  cases exec_ending i s with
  | error e answer _ =>
    cases (answers_of_raise answer).mp answers
    cases answer.symm.trans h
    rfl
  | ok u d answer same host inputs src gray bmp out acc valid =>
    exact absurd ((answers_of_respond answer same).mp answers) code
  | fatalStop x y command valid outside answer => nomatch answer.symm.trans h
  | refused m command gfx answer => nomatch answer.symm.trans h

/-! ## The fatal stop -/

/-- An accessor of a pixel outside a valid bitmap stops the block (44_bitmap.md R181, R182). -/
theorem exec_of_pixelOutside {x y : Word} (command : (∃ b, i = .setPixel x y b) ∨ i = .getPixel x y)
    (valid : s.bmp.valid = true) (outside : s.pixelOutside x y = true) :
    exec i s = .fault (.fatalStop (s.haltWith pixelOutOfRange)) := by
  rcases command with ⟨b, rfl⟩ | rfl
  · rcases execSetPixel_cases x y b s with ⟨nil, _⟩ | ⟨_, _, answer⟩ | ⟨_, inside, _⟩
    · exact absurd valid (ne_true_of_eq_false nil)
    · exact answer
    · exact absurd outside (ne_true_of_eq_false inside)
  · rcases execGetPixel_cases x y s with ⟨nil, _⟩ | ⟨_, _, answer⟩ | ⟨_, inside, _⟩
    · exact absurd valid (ne_true_of_eq_false nil)
    · exact answer
    · exact absurd outside (ne_true_of_eq_false inside)

/-- Settles O18: of the ways a command ends, one is a fault; a halted block's step is its halted outcome. -/
theorem fatalStopExactlyOutsideTheBitmap : Obligations.FatalStopExactlyOutsideTheBitmap := by
  refine ⟨fun i s f => ⟨fun h => ?_, ?_⟩, fun u t halted => step_of_fatal halted ▸ haltedOutcome_ne_next⟩
  · cases exec_ending i s with
    | error c answer code => nomatch answer.symm.trans h
    | ok u d answer => nomatch answer.symm.trans h
    | fatalStop x y command valid outside answer =>
      cases answer.symm.trans h
      exact ⟨x, y, command, valid, pixelOutside_eq_true.mp outside, rfl⟩
    | refused m command gfx answer => nomatch answer.symm.trans h
  · rintro ⟨x, y, command, valid, outside, rfl⟩
    exact exec_of_pixelOutside command valid (pixelOutside_eq_true.mpr outside)

/-! ## Checks and codes -/

/-- A command answers no code but `OK` and its own errors. -/
theorem not_answers_of_not_mem (code : c ≠ .ok) (h : c ∉ errorCodes i) : ¬Answers i s c :=
  fun answers => (exec_answersWithin i s c answers).elim code h

section
variable {P : Prop}

theorem answers_iff_of_raise (condition : P) (answer : exec i s = .next (s.raise c)) : Answers i s c ↔ P :=
  iff_of_true ((answers_of_raise answer).mpr rfl) condition

theorem answers_iff_of_raise_ne (condition : ¬P) (answer : exec i s = .next (s.raise e)) (code : c ≠ e) :
    Answers i s c ↔ P :=
  iff_of_false (mt (answers_of_raise answer).mp code) condition

theorem answers_iff_of_respond {d : DWord} (condition : ¬P) (answer : exec i s = .next (u.respond d))
    (observed : u.observed = s.observed) (code : c ≠ .ok) : Answers i s c ↔ P :=
  iff_of_false (mt (answers_of_respond answer observed).mp code) condition

theorem answers_iff_of_respondNat {n : Nat} (condition : ¬P) (answer : exec i s = .next (u.respondNat n))
    (observed : u.observed = s.observed) (code : c ≠ .ok) : Answers i s c ↔ P := by
  obtain ⟨v, d, hv, rfl | rfl⟩ := respondNat_ending u n <;>
  · rw [hv] at answer
    exact answers_iff_of_respond condition answer observed code

end

/-! ## The encoder's checks -/

/-- With `PROF_GFX = 1` an ENCODE with dimension fields of at most `lim` answers the error of the first check that fails
(45_encoder.md R209, R213). -/
structure EncodeErrors (i : Instr) (s : State) (lim : Nat) : Prop where
  invalidInput : Answers i s .invalidInput ↔ s.bmp.valid = false
  emptyImage : Answers i s .emptyImage ↔ s.bmp.valid = true ∧ (s.bmp.stride.toNat = 0 ∨ s.bmp.h.toNat = 0)
  dimensionOutOfRange : Answers i s .dimensionOutOfRange ↔ s.bmp.valid = true ∧ s.bmp.stride.toNat ≠ 0 ∧
    s.bmp.h.toNat ≠ 0 ∧ (lim < s.bmp.stride.toNat ∨ lim < s.bmp.h.toNat)
  bufferOverflow : Answers i s .bufferOverflow ↔ s.bmp.valid = true ∧ s.bmp.stride.toNat ≠ 0 ∧ s.bmp.h.toNat ≠ 0 ∧
    s.bmp.stride.toNat ≤ lim ∧ s.bmp.h.toNat ≤ lim ∧ s.profile.maxBuf.toNat < s.bmp.stride.toNat * s.bmp.h.toNat

/-- Each answer of the encoder decides the four conditions. -/
theorem encode_errors {m : PrintMode} {F lim : Nat} {g : Tag} (hF : F ≤ 4) (gfx : s.profile.gfx = true)
    (he : exec i s = encodeBitmap m F g lim s) : EncodeErrors i s lim := by
  rcases encodeBitmap_cases m hF g lim s with
    ⟨mute, _⟩ | ⟨_, ⟨nil, e⟩ | ⟨valid, ⟨empty, e⟩ | ⟨nonempty, ⟨above, e⟩ | ⟨within, ⟨large, e⟩ | ⟨small,
      ⟨_, e⟩ | ⟨_, e⟩⟩⟩⟩⟩⟩
  · exact absurd gfx (ne_true_of_eq_false mute)
  · have answers (c : Code) := answers_of_raise (c := c) (he.trans e)
    constructor <;> simp [answers, nil]
  iterate 4
    · have answers (c : Code) := answers_of_raise (c := c) (he.trans e)
      constructor <;> simp [answers, valid] <;> omega
  · have answers (c : Code) := answers_of_respond (c := c) (he.trans e) rfl
    constructor <;> simp [answers, valid] <;> omega

/-- Only ENCODE has the three codes (60_exceptions.md R233, R234, R235). -/
theorem isEncode_of_mem_errorCodes (code : c = .emptyImage ∨ c = .bufferOverflow ∨ c = .dimensionOutOfRange)
    (h : c ∈ errorCodes i) : IsEncode i := by
  cases i with
  | encodeStd m => exact ⟨m, .inl rfl⟩
  | encodeLarge m => exact ⟨m, .inr rfl⟩
  | ditherU mode t be => rcases code with rfl | rfl | rfl <;> cases be <;> simp [errorCodes] at h
  | _ => rcases code with rfl | rfl | rfl <;> simp [errorCodes] at h

/-- Settles O22: each code by its check, where every 32-bit dimension is within the limit of the large framing. -/
theorem encoderErrorsExactly : Obligations.EncoderErrorsExactly := by
  refine ⟨fun i s c code answers => ?_, fun m s gfx => ?_⟩
  · refine isEncode_of_mem_errorCodes code ((exec_answersWithin i s c answers).resolve_left ?_)
    rcases code with rfl | rfl | rfl <;> decide
  · have std : EncodeErrors (.encodeStd m) s 65535 := encode_errors (by decide) gfx rfl
    have large : EncodeErrors (.encodeLarge m) s 4294967295 := encode_errors (by decide) gfx rfl
    refine ⟨std.emptyImage, large.emptyImage, std.dimensionOutOfRange, std.bufferOverflow, ?_⟩
    simpa only [word_toNat_le, true_and] using large.bufferOverflow

/-! ## The image a command reads -/

theorem gray_answers_invalidInput_iff : Answers .gray s .invalidInput ↔ ¬s.srcHoldsImage := by
  rw [srcHoldsImage_iff, Bool.not_eq_false]
  rcases execGray_cases s with ⟨unusable, answer⟩ | ⟨usable, _, answer⟩ | ⟨usable, _, answer⟩
  · exact answers_iff_of_raise unusable answer
  · exact answers_iff_of_raise_ne (ne_true_of_eq_false usable) answer (by decide)
  · exact answers_iff_of_respond (ne_true_of_eq_false usable) answer rfl (by decide)

theorem resample_answers_invalidInput_iff {buf : ImageBuffer} {tw : Word} {dh : Nat}
    (he : exec i s = resample buf tw dh s) : Answers i s .invalidInput ↔ ¬s.holdsImage buf ∨ tw = 0 := by
  rw [holdsImage_iff, Bool.not_eq_false, ← word_toNat_eq_zero]
  rcases resample_cases buf tw dh s with
    ⟨bad, answer⟩ | ⟨usable, width, _, answer⟩ | ⟨usable, width, _, _, answer⟩ | ⟨usable, width, _, _, answer⟩
  · exact answers_iff_of_raise bad (he.trans answer)
  · exact answers_iff_of_respond (not_or.mpr ⟨ne_true_of_eq_false usable, width⟩) (he.trans answer) rfl (by decide)
  · exact answers_iff_of_raise_ne (not_or.mpr ⟨ne_true_of_eq_false usable, width⟩) (he.trans answer) (by decide)
  · exact answers_iff_of_respondNat (not_or.mpr ⟨ne_true_of_eq_false usable, width⟩) (he.trans answer)
      (by cases buf <;> rfl) (by decide)

section
variable {mode : DitherMode} {t : Byte}

theorem ditherImage_not_answers_invalidInput (he : exec i s = ditherImage mode t s) : ¬Answers i s .invalidInput := by
  rcases ditherImage_cases mode t s with ⟨_, answer⟩ | ⟨_, answer⟩
  · exact mt (answers_of_raise (he.trans answer)).mp (by decide)
  · exact mt (answers_of_respond (he.trans answer) rfl).mp (by decide)

theorem dither_answers_invalidInput_iff (he : exec i s = dither mode t s) :
    Answers i s .invalidInput ↔ ¬s.grayHoldsImage := by
  rw [grayHoldsImage_iff, Bool.not_eq_false]
  rcases dither_cases mode t s with ⟨unusable, answer⟩ | ⟨usable, scan⟩
  · exact answers_iff_of_raise unusable (he.trans answer)
  · exact iff_of_false (ditherImage_not_answers_invalidInput (he.trans scan)) (ne_true_of_eq_false usable)

end

theorem ditherU_answers_invalidInput_iff (mode t : Byte) (be : Bool) :
    Answers (.ditherU mode t be) s .invalidInput ↔ ¬s.grayHoldsImage := by
  rw [grayHoldsImage_iff, Bool.not_eq_false]
  rcases execDitherU_cases mode t be s with ⟨unusable, answer⟩ | ⟨usable, _, scan⟩ | ⟨usable, _, answer⟩
  · exact answers_iff_of_raise unusable answer
  · exact iff_of_false (ditherImage_not_answers_invalidInput scan) (ne_true_of_eq_false usable)
  · exact answers_iff_of_raise_ne (ne_true_of_eq_false usable) answer (by decide)

/-! ## The bitmap a command reads -/

theorem setPixel_answers_invalidInput_iff (x y : Word) (black : Bool) :
    Answers (.setPixel x y black) s .invalidInput ↔ s.bmp.valid = false := by
  rcases execSetPixel_cases x y black s with ⟨nil, answer⟩ | ⟨valid, _, stop⟩ | ⟨valid, _, answer⟩
  · exact answers_iff_of_raise nil answer
  · exact iff_of_false (not_answers_of_fault stop) (ne_false_of_eq_true valid)
  · exact answers_iff_of_respond (ne_false_of_eq_true valid) answer rfl (by decide)

theorem getPixel_answers_invalidInput_iff (x y : Word) :
    Answers (.getPixel x y) s .invalidInput ↔ s.bmp.valid = false := by
  rcases execGetPixel_cases x y s with ⟨nil, answer⟩ | ⟨valid, _, stop⟩ | ⟨valid, _, answer⟩
  · exact answers_iff_of_raise nil answer
  · exact iff_of_false (not_answers_of_fault stop) (ne_false_of_eq_true valid)
  · exact answers_iff_of_respond (ne_false_of_eq_true valid) answer rfl (by decide)

theorem rasterBytes_answers_invalidInput_iff : Answers .rasterBytes s .invalidInput ↔ s.bmp.valid = false := by
  rcases execRasterBytes_cases s with ⟨nil, answer⟩ | ⟨valid, answer⟩
  · exact answers_iff_of_raise nil answer
  · exact answers_iff_of_respond (ne_false_of_eq_true valid) answer rfl (by decide)

/-- Settles O20, command by command: three read no image and do not have the code, each other one checks first what it
reads. -/
theorem invalidInputExactly : Obligations.InvalidInputExactly := by
  intro i s graphics
  cases i with
  | srcDef fmt w h => exact iff_of_false (not_answers_of_not_mem (by decide) (by simp [errorCodes])) not_false
  | rdcsr n => exact iff_of_false (not_answers_of_not_mem (by decide) (by simp [errorCodes])) not_false
  | gray => exact gray_answers_invalidInput_iff
  | resampleX buf tw th => exact resample_answers_invalidInput_iff rfl
  | resampleA buf tw => exact resample_answers_invalidInput_iff rfl
  | ditherT t be => exact dither_answers_invalidInput_iff rfl
  | ditherFs t be => exact dither_answers_invalidInput_iff rfl
  | ditherAtk t be => exact dither_answers_invalidInput_iff rfl
  | ditherU mode t be => exact ditherU_answers_invalidInput_iff mode t be
  | bmpNew w h => exact iff_of_false (not_answers_of_not_mem (by decide) (by simp [errorCodes])) not_false
  | setPixel x y black => exact setPixel_answers_invalidInput_iff x y black
  | getPixel x y => exact getPixel_answers_invalidInput_iff x y
  | rasterBytes => exact rasterBytes_answers_invalidInput_iff
  | encodeStd m => exact (encode_errors (by decide) (graphics ⟨m, .inl rfl⟩) rfl).invalidInput
  | encodeLarge m => exact (encode_errors (by decide) (graphics ⟨m, .inr rfl⟩) rfl).invalidInput

end Sys2Proof.Machine
end

section
/-! PROOFS, family 70_reset_and_hazards.md. Each move of the block keeps the four valid bits. -/

namespace Sys2Proof.Machine

variable {s t : State} {b : Buffer}

@[simp] theorem observe_validBit (o : Observation) : (s.observe o).validBit b = s.validBit b := by cases b <;> rfl

@[simp] theorem respond_validBit (d : DWord) : (s.respond d).validBit b = s.validBit b := observe_validBit _

@[simp] theorem illegalCommand_validBit : s.illegalCommand.validBit b = s.validBit b := observe_validBit _

@[simp] theorem afterTaking_validBit (rest : List HostAction) : (s.afterTaking rest).validBit b = s.validBit b := by
  cases b <;> rfl

/-- The host's write changes bytes of SRC and not its valid bit (20_memory.md R61). -/
@[simp] theorem written_validBit (a : Nat) (bs : List Byte) : (s.written a bs).validBit b = s.validBit b := by
  cases b <;> rfl

/-- A command that leads on clears no valid bit: an error changes nothing but the responses, and `OK` clears none
(10_state.md R22, 60_exceptions.md R240). -/
theorem exec_keepsValidBit {i : Instr} (h : exec i s = .next t) (hb : s.validBit b = true) : t.validBit b = true := by
  cases exec_ending i s with
  | error c answer code =>
    rw [answer] at h
    cases h
    exact (observe_validBit _).trans hb
  | ok u d answer observed host inputs src gray bmp out acc valid =>
    rw [answer] at h
    cases h
    exact (respond_validBit d).trans (valid b hb)
  | fatalStop x y command valid outside answer => rw [answer] at h; cases h
  | refused m command gfx answer => rw [answer] at h; cases h

/-- Settles O12, move by move: a command by `exec_keepsValidBit`, every other move leaves the valid bits as they are. -/
theorem validBitsStayOne : Obligations.ValidBitsStayOne := by
  intro s t b hstep hb
  cases step_move hstep with
  | idle _ result => exact result ▸ hb
  | command d rest i _ _ answer => exact exec_keepsValidBit answer ((afterTaking_validBit rest).trans hb)
  | illegal d rest e _ _ result => simpa [result] using hb
  | write a bs rest _ _ _ result => simpa [result] using hb
  | read sp b' a n rest _ _ _ _ result => simpa [result] using hb

end Sys2Proof.Machine
end
